-- ==== Sys2Proof/Word.lean ====
section
/-! DEFINITION. The word and byte types of the machine and their plainest arithmetic
(`spec/00_scope.md` R8: all quantities are unsigned, 32-bit arithmetic is modulo 2^32). -/

namespace Sys2Proof

/-- A 32-bit word (R8, R81). -/
abbrev Word := BitVec 32

/-- One byte: the unit of the wire (R81). -/
abbrev Byte := BitVec 8

end Sys2Proof
end

