-- ==== Sys2Proof/Config.lean ====
section
/-! DEFINITION. What is fixed for the machine: the constants of Table 00-1, the parameters of Table
00-2, the types of CONFIG's fields, of wire events and of agents they mention, and the free values,
which are constants with no body. -/

namespace Sys2Proof

/-- CONFIG.IFMODE (Table 10-2): `flash_io` is coded 1 (R152). -/
inductive IfMode where
  | legacy | flashIo
  deriving DecidableEq, Repr

/-- CONFIG.ENDIAN (Table 10-2): `big` is coded 1 (R152). -/
inductive Endian where
  | little | big
  deriving DecidableEq, Repr

/-- CONFIG.CSLVL, the chip-select level (Table 10-2): `deasserted` is coded 1 (R152). -/
inductive CsLevel where
  | asserted | deasserted
  deriving DecidableEq, Repr

/-- CONFIG.FWIDTH (Table 10-2): `w32` is coded all ones, `other` is every other code (log 23). -/
inductive FifoWidth where
  | w32 | other
  deriving DecidableEq, Repr

/-- The stored fields of CONFIG (R28, Table 10-2). MSTRT is not among them: it is not stored (R29).
`rsvd` stands for "all other bits", 16 of them in a 32-bit register (log 23). -/
structure CtlConfig where
  ifmode  : IfMode
  endian  : Endian
  holdb   : Bool
  mstren  : Bool
  mancs   : Bool
  cslvl   : CsLevel
  baudsel : Bool
  fwidth  : FifoWidth
  baud    : BitVec 3
  cpha    : Bool
  cpol    : Bool
  master  : Bool
  rsvd    : BitVec 16
  deriving DecidableEq, Repr

/-- One event of WIRE (R40): chip select becomes asserted, becomes deasserted, or one byte sent and
one byte received. -/
inductive WireEvent where
  | cs1
  | cs0
  | byte (sent received : Byte)
  deriving DecidableEq, Repr

/-- The agents that take steps (R2). DEV answers inside ENG's step (R85). -/
inductive Agent where
  | seq | eng | host
  deriving DecidableEq, Repr, Inhabited

/-- What ENG does when the transmit FIFO runs empty (Table 00-2, R281). -/
inductive EmptyPolicy where
  | stop | continue
  deriving DecidableEq, Repr

/-- What ENG does when the receive FIFO is full (Table 00-2, R282). -/
inductive RxFullPolicy where
  | fault | stall
  deriving DecidableEq, Repr

/-- The parameters the document leaves open (R7, Table 00-2), and the opcodes of Table 30-5 that are no
parameter there, "each is a parameter" (R122, G2). REG_MAP and CFG_LAYOUT are out of scope by R4 and are
not here. The spec gives the platform's keys and mask no width; 32 bits is the model's choice (DESIGN
CHOICE, log 28). -/
structure Params where
  txDepth      : Nat
  rxDepth      : Nat
  emptyPolicy  : EmptyPolicy
  rxFullPolicy : RxFullPolicy
  filler       : Word
  readDummy    : Bool
  opcRead      : Byte
  opcPp        : Byte
  opcWren      : Byte
  opcRdsr      : Byte
  opcRdsr2     : Byte
  opcRdid      : Byte
  opcWrr       : Byte
  opcSe        : Byte
  opcBe        : Byte
  opcCe        : Byte
  opcRems      : Byte
  opcRdsr2Alt  : Byte
  opcFastRead  : Byte
  opcDor       : Byte
  opcQor       : Byte
  opcQpp       : Byte
  opcCeAlt     : Byte
  wipMask      : Byte
  welMask      : Byte
  cpha         : Bool
  cpol         : Bool
  baudDiv      : BitVec 3
  cfgReset     : CtlConfig
  unlockKey    : Word
  lockKey      : Word
  rstMask      : Word
  deriving DecidableEq, Repr

/-- "rules need TX_DEPTH >= 63", "rules need RX_DEPTH >= 63" (Table 00-2). -/
abbrev Params.DepthsSuffice (p : Params) : Prop := 63 ≤ p.txDepth ∧ 63 ≤ p.rxDepth

namespace Config

/-! Constants the document fixes (R6, Table 00-1). -/

def startCap : Nat := 63
def pageWords : Nat := 64
def pageBytes : Nat := 256
def burst1 : Nat := 16
def burst2 : Nat := 48
def pumpChunk : Nat := 32
def thresInit : Nat := 1
def thresTail : Nat := 1

/-! Parameters the spec leaves OPEN (Table 00-2, D25, D26): constants with no body (log 5). -/

opaque cpha : Bool
opaque cpol : Bool
opaque baudDiv : BitVec 3
opaque unlockKey : Word
opaque lockKey : Word
opaque rstMask : Word

/-! Free values (log 1, 8, 9, 10): nothing constrains them. -/

/-- DEV's answer to the byte being sent, given the wire history (R283). -/
opaque device : List WireEvent → Byte → Byte

/-- The word an RXD read of an empty RXQ returns, "any 32-bit value (a draw)" (Table 20-1). -/
opaque emptyPop : Nat → Word

/-- A threshold register after the reset pulse, "unspecified" (R153). -/
opaque freeThreshold : Nat → Nat

/-- LINEAR after the reset pulse, "unspecified" (R153). -/
opaque freeLinear : Nat → Bool

/-- The agent that moves at a turn of a free schedule, fair or not (R286, log 1). -/
opaque freeTurn : Nat → Agent

/-- CFG_RESET's default: "all fields 0 (IFMODE `legacy`, ENDIAN `little`, FWIDTH `other`),
chip-select deasserted" (Table 00-2). -/
def cfgReset : CtlConfig where
  ifmode := .legacy
  endian := .little
  holdb := false
  mstren := false
  mancs := false
  cslvl := .deasserted
  baudsel := false
  fwidth := .other
  baud := 0
  cpha := false
  cpol := false
  master := false
  rsvd := 0

/-- The defaults of Table 00-2 and, for the other opcodes, the values of Table 30-5; opcode bytes and
masks are general knowledge there (PRESUMED, log 4). -/
def defaults : Params where
  txDepth := 63
  rxDepth := 63
  emptyPolicy := .stop
  rxFullPolicy := .fault
  filler := 0
  readDummy := false
  opcRead := 0x03
  opcPp := 0x02
  opcWren := 0x06
  opcRdsr := 0x05
  opcRdsr2 := 0x35
  opcRdid := 0x9F
  opcWrr := 0x01
  opcSe := 0x20
  opcBe := 0xD8
  opcCe := 0xC7
  opcRems := 0x90
  opcRdsr2Alt := 0x07
  opcFastRead := 0x0B
  opcDor := 0x3B
  opcQor := 0x6B
  opcQpp := 0x32
  opcCeAlt := 0x60
  wipMask := 0x01
  welMask := 0x02
  cpha := cpha
  cpol := cpol
  baudDiv := baudDiv
  cfgReset := cfgReset
  unlockKey := unlockKey
  lockKey := lockKey
  rstMask := rstMask

end Config

end Sys2Proof
end

