-- ==== Sys2Proof/Syntax.lean ====
section
/-! DEFINITION. The instruction syntax: one constructor per row of `spec/opcode_table.json`. -/

namespace Sys2Proof

/-- The width of a transmit entry in bytes, which is the transmit port written: TXD_W1 .. TXD_W4
(R33). -/
inductive Width where
  | w1 | w2 | w3 | w4
  deriving DecidableEq, Repr

/-- The number of bytes of a width (R33). -/
def Width.bytes : Width → Nat
  | .w1 => 1
  | .w2 => 2
  | .w3 => 3
  | .w4 => 4

/-- What becomes of a popped word (R176): kept in `tmp`, thrown away, or stored to `HBuf[i]`. -/
inductive PopDest where
  | tmp
  | discard
  | hbuf (i : Word)
  deriving DecidableEq, Repr

/-- The flag a POLL waits for, "one of RXNE, TXNF" (R177). -/
inductive PollFlag where
  | rxne | txnf
  deriving DecidableEq, Repr

/-- The fields of a command descriptor other than OP and RSV (R110, Table 30-1). All of them are
latched by the accept step, used or not (R112, R114). -/
structure Desc where
  fop   : Byte
  arg   : BitVec 16
  addr  : Word
  ptr   : Word
  count : Word
  deriving DecidableEq, Repr

inductive Instr where
  -- format CMD: the nine commands (R111)
  | init (d : Desc)
  | read (d : Desc)
  | write (d : Desc)
  | erase (d : Desc)
  | readId (d : Desc)
  | readSr (d : Desc)
  | readSr2 (d : Desc)
  | wren (d : Desc)
  | wrr (d : Desc)
  -- format CMD: reserved operation numbers (R113)
  | reserved9 (d : Desc)
  | reserved10 (d : Desc)
  | reserved11 (d : Desc)
  | reserved12 (d : Desc)
  | reserved13 (d : Desc)
  | reserved14 (d : Desc)
  | reserved15 (d : Desc)
  -- format INTERNAL: procedures (R178, R190, R221, R240)
  | xfer (w : Width) (v : Word)
  | waitWip
  | programPage (pa pb : Word)
  | rxDrain
  -- format INTERNAL: primitives (R170 to R177)
  | csOn
  | csOff
  | start
  | setRxth (n : Nat)
  | setTxth (n : Nat)
  | push (w : Width) (v : Word)
  | pop (dst : PopDest)
  | poll (flag : PollFlag)
  -- format TXENTRY: transmit-entry formats (R116, Table 30-4)
  | op1 (o : Byte)
  | op2 (o : Byte)
  | opr3 (o : Byte) (arg : BitVec 16)
  | adr3 (addr : Word)
  | adr4 (addr : Word)
  | opa4 (o : Byte) (addr : Word)
  | opz4 (o : Byte)
  | dat4 (i : Word)
  | fil4
  -- format WIRE8: wire opcodes (R122, Table 30-5)
  | wireRdid
  | wireRdsr
  | wireRdsr2
  | wireWren
  | wireWrr
  | wireRead
  | wirePp
  | wireSe
  | wireBe
  | wireCe
  deriving DecidableEq, Repr

end Sys2Proof
end

