-- ==== Sys2Proof/Machine/State.lean ====
section
/-! DEFINITION. The machine's state, "the tuple (SEQ state, CTL state, platform state, DEV state, host
buffer memory, fault flags)" (R20) with the two observation traces (R40), and the state after power-on
reset (R43, Table 10-3). -/

namespace Sys2Proof.Machine

/-- The labels of the step tables, the values of `ust` (R23). -/
inductive Label where
  | idle | done
  | in1 | in2 | in3 | in4 | in5 | in6 | in7 | in8 | in9 | in10 | in11
  | dr1 | dr2
  | x1 | x2 | x3 | x4 | x5 | x6 | x7
  | we1 | we2 | rs1 | rs2 | id1 | id2
  | wr1 | wr2 | wr3 | er1 | er2 | er3 | er4 | t1 | t2
  | wt1 | wt2 | wt3
  | pp1 | pp2 | pp3 | pp4 | pp5 | pp6 | pp7 | pp8 | pp9 | pp10 | pp11 | pp12 | pp13 | pp14 | pp15
  | ww1 | ww2
  | rd0 | rd1 | rd2 | rd3 | rd4 | rd5 | rd6 | rd7 | rd8 | rd9 | rd10 | rd11 | rd12 | rd13 | rd14
  | rd15 | rd16 | rd17
  | l1 | l2 | l3 | l4 | l5 | l6
  deriving DecidableEq, Repr

/-- Where a return record resumes: at a label, or, for a call whose row's successor is itself `return`
(PP15), by returning once more (log 16). -/
inductive Resume where
  | label (l : Label)
  | ret
  deriving DecidableEq, Repr

/-- "the caller's live working registers" that a call saves (R180): WRITE's loop, PROGRAM_PAGE's
parameters and burst counter, or nothing (log 16). -/
inductive Saved where
  | none
  | write (pageI chunks : Word)
  | page (pa pb : Word) (k : BitVec 7)
  deriving DecidableEq, Repr

/-- A return record of `stk` (R23, R180). -/
structure Record where
  resume : Resume
  saved  : Saved
  deriving DecidableEq, Repr

/-- SEQ's registers (R21 to R25, Table 10-1). -/
structure Seq where
  -- command registers (R21)
  op     : BitVec 4
  fop    : Byte
  arg    : BitVec 16
  addr   : Word
  ptr    : Word
  count  : Word
  /-- The shadow of CONFIG; `none` is the spec's "no value" before the first INIT (R22). -/
  shadow : Option CtlConfig
  /-- `manual_mode` of the last INIT, which the refusal `auto_mode` asks for (R113, log 15). -/
  manual : Bool
  /-- The micro-state, SEQ's program counter (R23). -/
  ust    : Label
  /-- The return stack (R23, R180). -/
  stk    : List Record
  -- working registers (R24, Table 10-1)
  old    : CtlConfig
  pageI  : Word
  chunks : Word
  pa     : Word
  pb     : Word
  k      : BitVec 7
  txRem  : Word
  rxRem  : Word
  chunk  : BitVec 7
  off    : Word
  n      : BitVec 7
  tmp    : Word
  ret    : Word
  sr     : Byte
  -- parameters bound by `call XFER(w, v)` and `call RDSR(opc)` (R180, log 16)
  xw     : Width
  xv     : Word
  opc    : Byte
  -- the response interface (R25)
  result : Word
  busy   : Bool
  deriving DecidableEq, Repr

/-- One element of TXQ: `n` bytes will go on the wire for it (R33, R35). -/
structure TxEntry where
  width : Width
  value : Word
  deriving DecidableEq, Repr

/-- The modelled controller (R27 to R36). STATUS is computed, not stored (R31); TXD and RXD are
ports. -/
structure Ctl where
  en      : Bool
  config  : CtlConfig
  linear  : Bool
  rxThres : Nat
  txThres : Nat
  txq     : List TxEntry
  rxq     : List Word
  running : Bool
  deriving DecidableEq, Repr

/-- Platform state (R37). -/
structure Plat where
  locked : Bool
  rst    : Bool
  deriving DecidableEq, Repr

/-- The sticky model-level fault flags (R38). -/
structure FaultFlags where
  txOverflow  : Bool
  rxUnderflow : Bool
  rxOverrun   : Bool
  deriving DecidableEq, Repr

/-- DEV (R39, R283): any device at all, or the test fixture PatDev with what is left of its status
script (log 8). -/
inductive Device where
  | oracle
  | patDev (statusScript : List Byte)
  deriving DecidableEq, Repr

/-- Host buffer memory as bytes: addresses strictly rising, no entry equal to what an unlisted byte
reads as (log 11). -/
abbrev Memory := List Host.Cell

/-- One access of REGTRACE: read or write, register, value (R40, Table 20-1). -/
inductive Access where
  | wEn (b : Bool)
  | rConfig (c : CtlConfig)
  | wConfig (c : CtlConfig) (mstrt : Bool)
  | wLinear (b : Bool)
  | rStatus (rxne txnf txfull : Bool)
  | wRxThres (n : Nat)
  | wTxThres (n : Nat)
  | wTxd (port : Width) (v : Word)
  | rRxd (v : Word)
  | wUnlock (key : Word)
  | wLock (key : Word)
  | wRstSet (mask : Word)
  | wRstClear (mask : Word)
  deriving DecidableEq, Repr

/-- HOST's moves (R285): issue a command, read `result`, read or write a word of HMEM. -/
inductive HostMove where
  | command (d0 d1 d2 d3 : Word)
  | readResult
  | memRead (a : Word)
  | memWrite (a v : Word)
  deriving DecidableEq, Repr

/-- Why the model gives a command or an access no meaning (R113, Table 60-1). All are safe: the model
declines to say what the hardware does. A refusal of HOST's move leaves the state unchanged and the run
goes on (log 3); one of SEQ's or ENG's step ends the run. -/
inductive Refusal where
  /-- Raised by an arm of exec whose instruction has no meaning yet; none is left. Safe. -/
  | notModelled (mnemonic : String)
  /-- `refuse reserved_op`: OP 9..15, or RSV not 0 (R113). Raised by the accept step. Safe. -/
  | reservedOp
  /-- `refuse busy`: a command, or an access by HOST, while a command runs (R113, U16). Safe. -/
  | busy
  /-- `refuse not_initialised`: a command other than INIT, or a primitive that reads `shadow`, while
  `shadow` holds no value (R113, R22). Safe. -/
  | notInitialised
  /-- `refuse auto_mode`: a command other than INIT after `init(false)`, or a START with MSTREN = 0
  (R113, R154, R281). Safe. -/
  | autoMode
  /-- `refuse misaligned_ptr`: READ or WRITE with `count` not 0 and `ptr[1:0]` not 0 (R113); or an HMEM
  access at an address that is no multiple of 4, where no word exists (R71, log 12). Safe. -/
  | misalignedPtr
  /-- `refuse bad_threshold`: a threshold write of 0 or above the depth (R32, Table 60-1). Safe. -/
  | badThreshold
  /-- Raised by ENG's shift with CONFIG.ENDIAN = `big`: "`refuse` if a model ever reaches it" (U9,
  R79). Safe. -/
  | endianBig
  /-- Raised by ENG's shift with CONFIG.FWIDTH = `other`: "no rule is defined for `other`" (Table
  10-2). Safe. -/
  | fifoWidthOther
  /-- Raised by ENG's shift with LINEAR = 1: "No transfer rule of this spec is defined with LINEAR = 1"
  (R30). Safe. -/
  | linearMode
  deriving DecidableEq, Repr

/-- HOST: its pending moves, the values it has read and the refusals it has met, each oldest first (log
2, 3, 27). -/
structure HostPort where
  moves    : List HostMove
  seen     : List Word
  refusals : List Refusal
  deriving DecidableEq, Repr

/-- Who moves when no turn is listed: a reference schedule (R286), a list of turns repeated for ever, or
a free schedule at its `i`-th turn, any at all, fair or not (log 1). -/
inductive SchedMode where
  | sPoll
  | sEager
  | cycle (turns : List Agent)
  | free (i : Nat)
  deriving DecidableEq, Repr

/-- Who moves next (log 1): the listed turns first, any interleaving at all; after them the schedule
`mode`. `polled` says that the last step was a SEQ step that read STATUS. -/
structure Sched where
  turns  : List Agent
  mode   : SchedMode
  polled : Bool
  deriving DecidableEq, Repr

/-- The whole state (R20). `par`, `host`, `sched` and `draws` are the model's own (INVENTORY.md). -/
structure State where
  seq      : Seq
  ctl      : Ctl
  plat     : Plat
  dev      : Device
  hmem     : Memory
  flags    : FaultFlags
  regTrace : List Access
  wire     : List WireEvent
  host     : HostPort
  sched    : Sched
  draws    : Nat
  par      : Params
  deriving DecidableEq, Repr

/-- Why the machine stops with a fault. Both are stuck places that the spec says no run reaches; both
are safe. -/
inductive Fault where
  /-- Raised by a `return` with `stk` empty, which "cannot occur" (R180). Safe: the model stops where
  the tables give no successor. -/
  | returnOnEmptyStack
  /-- Raised by row T1 when `op` is none of 4, 5, 6, 7, for which Table 42-2 names no procedure. Safe:
  T1 is the first step of those four commands only. -/
  | noProcedureForOp
  deriving DecidableEq, Repr

/-- What a step or an instruction answers. -/
abbrev Result := Host.Outcome State Fault Refusal

/-- Power-on state of SEQ (R330): IDLE, no return record, not busy, `result` 0, no shadow value. The
other registers hold no value there; here 0 (log 6, 15, 16). -/
def Seq.reset : Seq where
  op := 0
  fop := 0
  arg := 0
  addr := 0
  ptr := 0
  count := 0
  shadow := none
  manual := false
  ust := .idle
  stk := []
  old := Config.cfgReset
  pageI := 0
  chunks := 0
  pa := 0
  pb := 0
  k := 0
  txRem := 0
  rxRem := 0
  chunk := 0
  off := 0
  n := 0
  tmp := 0
  ret := 0
  sr := 0
  xw := .w1
  xv := 0
  opc := 0
  result := 0
  busy := false

/-- Power-on state of the controller, "unspecified" (R331); the values are the model's (log 7). -/
def Ctl.reset : Ctl where
  en := false
  config := Config.cfgReset
  linear := false
  rxThres := 1
  txThres := 1
  txq := []
  rxq := []
  running := false

/-- The machine right after power-on reset (R43, R330, R331): nothing pending, nothing traced. -/
def State.reset : State where
  seq := Seq.reset
  ctl := Ctl.reset
  plat := { locked := true, rst := false }
  dev := .oracle
  hmem := []
  flags := { txOverflow := false, rxUnderflow := false, rxOverrun := false }
  regTrace := []
  wire := []
  host := { moves := [], seen := [], refusals := [] }
  sched := { turns := [], mode := .sPoll, polled := false }
  draws := 0
  par := Config.defaults

end Sys2Proof.Machine
end

