-- ==== Sys2Proof/Machine/Flags.lean ====
section
/-! DEFINITION. The three STATUS flags, pure functions of other state, computed at every read (R31). -/

namespace Sys2Proof.Machine

/-- RXNE is 1 exactly when `|RXQ| >= RX_THRES` (R31). -/
def Ctl.rxne (c : Ctl) : Bool := decide (c.rxThres ≤ c.rxq.length)

/-- TXNF is 1 exactly when `|TXQ| < TX_THRES` (R31). -/
def Ctl.txnf (c : Ctl) : Bool := decide (c.txq.length < c.txThres)

/-- TXFULL is 1 exactly when `|TXQ| = TX_DEPTH` (R31). -/
def Ctl.txfull (c : Ctl) (p : Params) : Bool := decide (c.txq.length = p.txDepth)

/-- The flag a POLL waits for (R177). -/
def Ctl.pollFlag (c : Ctl) : PollFlag → Bool
  | .rxne => c.rxne
  | .txnf => c.txnf

end Sys2Proof.Machine
end

