-- ==== Sys2Proof/Machine/Operands.lean ====
section
/-! DEFINITION. Operand forms and bit-field arithmetic: address reversal, transmit-entry values, byte
order on the wire, response extraction, page and buffer addresses. -/

namespace Sys2Proof.Machine

/-- `byte_k(v) = v[8k+7:8k]` (R8). -/
def byteOf (k : Nat) (v : Word) : Byte := v.extractLsb' (8 * k) 8

/-- Address reversal: bits 7:0 are `a[23:16]`, bits 15:8 are `a[15:8]`, bits 23:16 are `a[7:0]`
(R117). -/
def rev24 (a : Word) : BitVec 24 := byteOf 0 a ++ byteOf 1 a ++ byteOf 2 a

/-- The opcode-and-address word `opa(o, a) = rev24(a) || o` (R119), the value of format OPA4. -/
def opa (o : Byte) (a : Word) : Word := rev24 a ++ o

/-! The values of the transmit-entry formats (R116, Table 30-4). -/

def op1Word (o : Byte) : Word := o.zeroExtend 32
def op2Word (o : Byte) : Word := o.zeroExtend 32
def opr3Word (o : Byte) (arg : BitVec 16) : Word := (arg ++ o).zeroExtend 32
def adr3Word (a : Word) : Word := (rev24 a).zeroExtend 32
def adr4Word (a : Word) : Word := (rev24 a).zeroExtend 32
def opz4Word (o : Byte) : Word := o.zeroExtend 32

/-- `v[8n-1:0]`: a transmit port drops the bits above its width (R33). -/
def truncateTo (w : Width) (v : Word) : Word :=
  match w with
  | .w1 => (v.extractLsb' 0 8).zeroExtend 32
  | .w2 => (v.extractLsb' 0 16).zeroExtend 32
  | .w3 => (v.extractLsb' 0 24).zeroExtend 32
  | .w4 => v

/-- Transmit order: `byte_0(v)` first, up to `byte_{n-1}(v)` (R75). -/
def sentBytes (w : Width) (v : Word) : List Byte := (List.range w.bytes).map (byteOf · v)

/-- Receive order: the received bytes fill the most significant bytes of the word, the first received
lowest among them, the low bytes 0 (R76). Each byte, in arrival order, enters at the top and pushes
the earlier ones down. -/
def rxWord (received : List Byte) : Word :=
  received.foldl (fun w r => r ++ w.extractLsb' 8 24) 0

/-- `hi8(w) = w[31:24]` (R121). -/
def hi8 (w : Word) : Byte := byteOf 3 w

/-- `id24(w) = w[31:8]` (R121). -/
def id24 (w : Word) : BitVec 24 := w.extractLsb' 8 24

/-- `ceil(count / 64)`, computed as `count[31:6] + (1 if count[5:0] != 0 else 0)` (R120). -/
def chunksOf (count : Word) : Word :=
  (count >>> 6) + (if count.extractLsb' 0 6 = 0 then 0 else 1)

/-- `pa_i = (addr + 256*i) mod 2^32` (R120). -/
def pageAddr (addr i : Word) : Word := addr + 256 * i

/-- `pb_i = 64*i` (R120). -/
def pageBase (i : Word) : Word := 64 * i

/-- The byte address of `HBuf[i]`, `ptr + 4*i` modulo 2^32 (R71). -/
def hbufAddr (ptr i : Word) : Word := ptr + 4 * i

/-- "a multiple of 4" (R71, R80). -/
def aligned (a : Word) : Bool := a.extractLsb' 0 2 == 0

end Sys2Proof.Machine
end

