-- ==== Sys2Proof/Machine/Memory.lean ====
section
/-! DEFINITION. Host buffer memory HMEM (R71): 32-bit words at byte addresses that are multiples of 4,
held as bytes in one canonical form. -/

namespace Sys2Proof.Machine

/-- What an unlisted byte reads as (DESIGN CHOICE, log 11). -/
def Memory.unlisted : Byte := 0

/-- The canonical form from address `lo` on: addresses strictly rising below 2^32, no entry equal to
what an unlisted byte reads as. -/
def Memory.wfFrom : Nat → Memory → Bool
  | _, [] => true
  | lo, (a, b) :: m => decide (lo ≤ a ∧ a < 2 ^ 32) && (b != Memory.unlisted) && wfFrom (a + 1) m

/-- The canonical form. -/
def Memory.wf (m : Memory) : Bool := Memory.wfFrom 0 m

/-- One byte. -/
def Memory.readByte : Memory → Nat → Byte
  | [], _ => Memory.unlisted
  | (a, b) :: m, x => if x = a then b else readByte m x

/-- A listed entry for `v`, none if `v` is what an unlisted byte reads as. -/
def Memory.cell (x : Nat) (v : Byte) : Memory := if v = Memory.unlisted then [] else [(x, v)]

/-- Replace one byte, keeping the canonical form. -/
def Memory.writeByte : Memory → Nat → Byte → Memory
  | [], x, v => Memory.cell x v
  | (a, b) :: m, x, v =>
    if x < a then Memory.cell x v ++ (a, b) :: m
    else if x = a then Memory.cell x v ++ m
    else (a, b) :: writeByte m x v

/-- The key of byte `j` of the word at `a`; addresses are 32 bits (R71). Byte 0 is the low byte (log
11). -/
def byteKey (a : Word) (j : Nat) : Nat := (a + BitVec.ofNat 32 j).toNat

/-- `MemRead(a, 4)` at an aligned address (R71). -/
def Memory.readWord (m : Memory) (a : Word) : Word :=
  m.readByte (byteKey a 3) ++ m.readByte (byteKey a 2) ++ m.readByte (byteKey a 1)
    ++ m.readByte (byteKey a 0)

/-- `MemWrite(a, 4, v)` at an aligned address (R71). -/
def Memory.writeWord (m : Memory) (a v : Word) : Memory :=
  (((m.writeByte (byteKey a 0) (byteOf 0 v)).writeByte (byteKey a 1) (byteOf 1 v)).writeByte
    (byteKey a 2) (byteOf 2 v)).writeByte (byteKey a 3) (byteOf 3 v)

end Sys2Proof.Machine
end

