-- ==== Sys2Proof/Machine/Ops.lean ====
section
/-! DEFINITION. The shared operations: one definition per controller and platform access of Table
20-1, the host-buffer accesses, and the setters they are made of.

This hardware takes no exception and has no return from one (R300, R307, R308): there is no shared
exception operation. What stands nearest, setting a sticky fault flag (R38), is in `txdWrite`,
`rxdRead` and ENG's delivery. -/

namespace Sys2Proof.Machine

/-! ### Setters -/

/-- Replace SEQ's registers. -/
def State.setSeq (s : State) (q : Seq) : State := { s with seq := q }

/-- Replace the controller. -/
def State.setCtl (s : State) (c : Ctl) : State := { s with ctl := c }

/-- Replace the platform state. -/
def State.setPlat (s : State) (p : Plat) : State := { s with plat := p }

/-- Append one access to REGTRACE (R40). -/
def State.record (s : State) (a : Access) : State := { s with regTrace := s.regTrace ++ [a] }

/-- Append events to WIRE (R40). -/
def State.emit (s : State) (es : List WireEvent) : State := { s with wire := s.wire ++ es }

/-- `-> LABEL` (R9). -/
def State.goto (s : State) (l : Label) : State := s.setSeq { s.seq with ust := l }

/-- Go on with the next state of a result. -/
def Result.andThen (r : Result) (f : State → Result) : Result :=
  match r with
  | .next s => f s
  | .fault e => .fault e
  | .refused e => .refused e

/-! ### CONFIG (R28, R29, Table 20-1) -/

/-- The wire event of a change of chip-select level (R40). -/
def csEvents : CsLevel → CsLevel → List WireEvent
  | .deasserted, .asserted => [.cs1]
  | .asserted, .deasserted => [.cs0]
  | .asserted, .asserted => []
  | .deasserted, .deasserted => []

/-- Under EMPTY_POLICY = `continue` a change of CSLVL to deasserted clears `running` (R281). -/
def runningAfterCs (p : Params) (old new : CsLevel) (running : Bool) : Bool :=
  match p.emptyPolicy, old, new with
  | .continue, .asserted, .deasserted => false
  | _, _, _ => running

/-- The start rule (R281): under `stop`, `running <- 1` if TXQ is not empty and nothing if it is;
under `continue`, `running <- 1` in both cases. -/
def runningAfterStart (p : Params) (txq : List TxEntry) (running : Bool) : Bool :=
  match p.emptyPolicy with
  | .stop => if txq.isEmpty then running else true
  | .continue => true

/-- `CtlWrite(CONFIG, c)`: store every field, the chip-select edge and, with MSTRT = 1, the start rule
(Table 20-1). -/
def ctlWriteConfig (c : CtlConfig) (mstrt : Bool) (s : State) : State :=
  let cs := runningAfterCs s.par s.ctl.config.cslvl c.cslvl s.ctl.running
  let run := if mstrt then runningAfterStart s.par s.ctl.txq cs else cs
  ((s.setCtl { s.ctl with config := c, running := run }).emit
    (csEvents s.ctl.config.cslvl c.cslvl)).record (.wConfig c mstrt)

/-- `CtlRead(CONFIG)` returns the stored fields, MSTRT = 0 (R29): the value is `s.ctl.config`. -/
def ctlReadConfig (s : State) : State := s.record (.rConfig s.ctl.config)

/-! ### EN, LINEAR, STATUS, thresholds -/

/-- `CtlWrite(EN, b)` (Table 20-1). -/
def ctlWriteEn (b : Bool) (s : State) : State := (s.setCtl { s.ctl with en := b }).record (.wEn b)

/-- `CtlWrite(LINEAR, b)` (Table 20-1). -/
def ctlWriteLinear (b : Bool) (s : State) : State :=
  (s.setCtl { s.ctl with linear := b }).record (.wLinear b)

/-- `CtlRead(STATUS)` returns (RXNE, TXNF, TXFULL) of this state and has no other effect (R31). -/
def ctlReadStatus (s : State) : State :=
  s.record (.rStatus s.ctl.rxne s.ctl.txnf (s.ctl.txfull s.par))

/-- `CtlWrite(RX_THRES, n)`; a value outside 1 .. RX_DEPTH is refused (R32). -/
def ctlWriteRxThres (n : Nat) (s : State) : Result :=
  if 1 ≤ n ∧ n ≤ s.par.rxDepth then
    .next ((s.setCtl { s.ctl with rxThres := n }).record (.wRxThres n))
  else .refused .badThreshold

/-- `CtlWrite(TX_THRES, n)`; a value outside 1 .. TX_DEPTH is refused (R32). -/
def ctlWriteTxThres (n : Nat) (s : State) : Result :=
  if 1 ≤ n ∧ n ≤ s.par.txDepth then
    .next ((s.setCtl { s.ctl with txThres := n }).record (.wTxThres n))
  else .refused .badThreshold

/-! ### FIFO ports -/

/-- The FIFO side of a TXD write: append the entry if TXQ is not full, else drop it and set
`tx_overflow` (Table 20-1). -/
def txAppend (e : TxEntry) (s : State) : State :=
  if s.ctl.txq.length < s.par.txDepth then s.setCtl { s.ctl with txq := s.ctl.txq ++ [e] }
  else { s with flags := { s.flags with txOverflow := true } }

/-- `CtlWrite(TXD_Wn, v)`: the entry is `(n, v[8n-1:0])`, the record holds `v` (R33, Table 20-1). -/
def txdWrite (w : Width) (v : Word) (s : State) : State :=
  (txAppend { width := w, value := truncateTo w v } s).record (.wTxd w v)

/-- The word an RXD read returns: the head of RXQ, or a free value if RXQ is empty (R34, Table 20-1). -/
def rxdValue (s : State) : Word :=
  match s.ctl.rxq with
  | [] => Config.emptyPop s.draws
  | w :: _ => w

/-- The FIFO side of an RXD read: remove the head, or set `rx_underflow` (Table 20-1). -/
def rxTake (s : State) : State :=
  match s.ctl.rxq with
  | [] => { s with flags := { s.flags with rxUnderflow := true }, draws := s.draws + 1 }
  | _ :: q => s.setCtl { s.ctl with rxq := q }

/-- `CtlRead(RXD)`; the value is `rxdValue` of the state before (Table 20-1). -/
def rxdRead (s : State) : State := (rxTake s).record (.rRxd (rxdValue s))

/-! ### Platform registers (R37, Table 20-1) -/

/-- `PlatWrite(UNLOCK, UNLOCK_KEY)`. -/
def platUnlock (s : State) : State :=
  (s.setPlat { s.plat with locked := false }).record (.wUnlock s.par.unlockKey)

/-- `PlatWrite(LOCK, LOCK_KEY)`. -/
def platLock (s : State) : State :=
  (s.setPlat { s.plat with locked := true }).record (.wLock s.par.lockKey)

/-- The effect of the clock-domain reset (R153): FIFOs empty, `running`, EN clear, CONFIG at
CFG_RESET with its chip-select edge; RX_THRES, TX_THRES and LINEAR unspecified, free values (log 10).
DEV and the fault flags stay. -/
def resetPulse (s : State) : State :=
  let c : Ctl := {
    en := false
    config := s.par.cfgReset
    linear := Config.freeLinear s.draws
    rxThres := Config.freeThreshold s.draws
    txThres := Config.freeThreshold (s.draws + 1)
    txq := []
    rxq := []
    running := false }
  { ((s.setCtl c).emit (csEvents s.ctl.config.cslvl s.par.cfgReset.cslvl)) with draws := s.draws + 2 }

/-- `PlatSet(RSTCTL, RST_MASK)`: with `locked = 0`, `rst <- 1` and the reset; else no effect. -/
def platSetReset (s : State) : State :=
  let s' := if s.plat.locked then s else resetPulse (s.setPlat { s.plat with rst := true })
  s'.record (.wRstSet s.par.rstMask)

/-- `PlatClear(RSTCTL, RST_MASK)`: with `locked = 0`, `rst <- 0`; else no effect. -/
def platClearReset (s : State) : State :=
  let s' := if s.plat.locked then s else s.setPlat { s.plat with rst := false }
  s'.record (.wRstClear s.par.rstMask)

/-! ### Host buffer (R71) -/

/-- The byte address of `HBuf[i]` of the command in progress (R71). -/
def State.hbuf (s : State) (i : Word) : Word := hbufAddr s.seq.ptr i

/-- `MemWrite(a, 4, v)`; there is no word at an address that is no multiple of 4 (R71, log 12). -/
def memWrite (a v : Word) (s : State) : Result :=
  if aligned a then .next { s with hmem := s.hmem.writeWord a v } else .refused .misalignedPtr

end Sys2Proof.Machine
end

