-- ==== Sys2Proof/Machine/Commands.lean ====
section
/-! DEFINITION. The nine commands and the seven reserved operation numbers: the refusals of R113 in the
order of R306 (Table 60-1), and the accept step R114. -/

namespace Sys2Proof.Machine

/-- HOST may move only while `busy = 0` and `ust = IDLE` (R114, R285). -/
def State.accepting (s : State) : Bool := !s.seq.busy && s.seq.ust == .idle

/-- The accept step (R114): latch the command registers, `busy <- 1`, `stk <- empty`, `ust` at the
command's first step. -/
def accept (op : BitVec 4) (first : Label) (d : Desc) (s : State) : State :=
  s.setSeq { s.seq with
    op := op, fop := d.fop, arg := d.arg, addr := d.addr, ptr := d.ptr, count := d.count
    busy := true, stk := [], ust := first }

/-- `refuse not_initialised` when `shadow` holds no value, `refuse auto_mode` when the last INIT had
`manual_mode = 0` (R113). -/
def State.transferRefusal (s : State) : Option Refusal :=
  if s.seq.shadow = none then some .notInitialised
  else if s.seq.manual = false then some .autoMode
  else none

/-- `refuse misaligned_ptr` when COUNT is not 0 and PTR[1:0] is not 0 (R113). -/
def Desc.ptrRefusal (d : Desc) : Option Refusal :=
  if d.count ≠ 0 ∧ aligned d.ptr = false then some .misalignedPtr else none

/-- Accept a command unless busy or the refusal `r` holds; the causes are taken in the order of Table
60-1 (R306). -/
def acceptUnless (r : Option Refusal) (op : BitVec 4) (first : Label) (d : Desc) (s : State) : Result :=
  if s.accepting then
    match r with
    | some e => .refused e
    | none => .next (accept op first d s)
  else .refused .busy

/-- INIT (R150): accepted whenever SEQ is idle. -/
def execInit (d : Desc) (s : State) : Result := acceptUnless none 0 .in1 d s

/-- READ (R250). -/
def execRead (d : Desc) (s : State) : Result :=
  acceptUnless (s.transferRefusal <|> Desc.ptrRefusal d) 1 .rd0 d s

/-- WRITE (R220). -/
def execWrite (d : Desc) (s : State) : Result :=
  acceptUnless (s.transferRefusal <|> Desc.ptrRefusal d) 2 .wt1 d s

/-- ERASE (R196). -/
def execErase (d : Desc) (s : State) : Result := acceptUnless s.transferRefusal 3 .er1 d s

/-- READ_ID (R194). -/
def execReadId (d : Desc) (s : State) : Result := acceptUnless s.transferRefusal 4 .t1 d s

/-- READ_SR (R192). -/
def execReadSr (d : Desc) (s : State) : Result := acceptUnless s.transferRefusal 5 .t1 d s

/-- READ_SR2, also called `read_cr()` (R193, R127). -/
def execReadSr2 (d : Desc) (s : State) : Result := acceptUnless s.transferRefusal 6 .t1 d s

/-- WREN (R191). -/
def execWren (d : Desc) (s : State) : Result := acceptUnless s.transferRefusal 7 .t1 d s

/-- WRR (R195). -/
def execWrr (d : Desc) (s : State) : Result := acceptUnless s.transferRefusal 8 .wr1 d s

/-! ### Reserved operation numbers: `refuse reserved_op`, the first cause in Table 60-1 (R113, R306) -/

/-- The refusal of a reserved operation number, whatever the descriptor and the state (R113). -/
def refuseReserved (_ : Desc) (_ : State) : Result := .refused .reservedOp

/-- OP 9 (R113). -/
def execReserved9 (d : Desc) (s : State) : Result := refuseReserved d s

/-- OP 10 (R113). -/
def execReserved10 (d : Desc) (s : State) : Result := refuseReserved d s

/-- OP 11 (R113). -/
def execReserved11 (d : Desc) (s : State) : Result := refuseReserved d s

/-- OP 12 (R113). -/
def execReserved12 (d : Desc) (s : State) : Result := refuseReserved d s

/-- OP 13 (R113). -/
def execReserved13 (d : Desc) (s : State) : Result := refuseReserved d s

/-- OP 14 (R113). -/
def execReserved14 (d : Desc) (s : State) : Result := refuseReserved d s

/-- OP 15 (R113). -/
def execReserved15 (d : Desc) (s : State) : Result := refuseReserved d s

end Sys2Proof.Machine
end

