-- ==== Sys2Proof/Machine/Control.lean ====
section
/-! DEFINITION. The movement of the micro-state `ust`: the successor column of the step tables, calls
and returns (R23, R180), and the end of a row whose access has been made. -/

namespace Sys2Proof.Machine

/-- The "next" column of the step tables (Tables 40-2, 41-1, 42-1 to 42-4, 43-1, 43-2, 44-1, 45-1) for
a row with one successor; for a call row, the row it resumes at. A row with another kind of successor
(a return, a test, a burst of conditional length) is sent on by `State.advance` or by its own local
step, and stands for itself here. -/
def Label.succ : Label → Label
  | .idle => .idle
  | .done => .idle
  | .in1 => .in2 | .in2 => .in3 | .in3 => .in4 | .in4 => .in5 | .in5 => .in6 | .in6 => .in7
  | .in7 => .in8 | .in8 => .in9 | .in9 => .in10 | .in10 => .in11 | .in11 => .done
  | .dr1 => .dr1 | .dr2 => .dr1
  | .x1 => .x2 | .x2 => .x3 | .x3 => .x4 | .x4 => .x5 | .x5 => .x6 | .x6 => .x7 | .x7 => .x7
  | .we1 => .we2 | .we2 => .we2 | .rs1 => .rs2 | .rs2 => .rs2 | .id1 => .id2 | .id2 => .id2
  | .wr1 => .wr2 | .wr2 => .wr3 | .wr3 => .done
  | .er1 => .er2 | .er2 => .er3 | .er3 => .er4 | .er4 => .done
  | .t1 => .t2 | .t2 => .done
  | .wt1 => .wt2 | .wt2 => .wt3 | .wt3 => .wt2
  | .pp1 => .pp2 | .pp2 => .pp3 | .pp3 => .pp4 | .pp4 => .pp5 | .pp5 => .pp6 | .pp6 => .pp7
  | .pp7 => .pp8 | .pp8 => .pp9 | .pp9 => .pp10 | .pp10 => .pp11 | .pp11 => .pp12
  | .pp12 => .pp13 | .pp13 => .pp14 | .pp14 => .pp15 | .pp15 => .pp15
  | .ww1 => .ww2 | .ww2 => .ww2
  | .rd0 => .rd1 | .rd1 => .rd2 | .rd2 => .rd3 | .rd3 => .rd4 | .rd4 => .rd5 | .rd5 => .rd6
  | .rd6 => .rd7 | .rd7 => .rd8 | .rd8 => .rd9 | .rd9 => .rd10 | .rd10 => .rd11 | .rd11 => .rd12
  | .rd12 => .rd13 | .rd13 => .rd14 | .rd14 => .rd15 | .rd15 => .l1
  | .rd16 => .rd17 | .rd17 => .done
  | .l1 => .l1 | .l2 => .l2 | .l3 => .l4 | .l4 => .l4 | .l5 => .l6 | .l6 => .l1

/-! ### Calls and returns (R180) -/

/-- "the caller's live working registers": those of WRITE across its page, those of PROGRAM_PAGE
across its calls; no other caller has any (log 16). -/
def Seq.liveRegs (q : Seq) : Saved :=
  match q.ust with
  | .wt2 => .write q.pageI q.chunks
  | .pp1 | .pp8 | .pp14 | .pp15 => .page q.pa q.pb q.k
  | _ => .none

/-- The record a call pushes: "the label of the next row of the calling table, and the caller's live
working registers". PP15's next is `return` (Table 43-2). -/
def Seq.returnRecord (q : Seq) : Record where
  resume := match q.ust with
    | .pp15 => .ret
    | l => .label l.succ
  saved := q.liveRegs

/-- `call P(args)`: push the record and go to P's first label; the arguments are bound by the caller of
this operation (R180). -/
def State.call (s : State) (first : Label) : State :=
  s.setSeq { s.seq with stk := s.seq.returnRecord :: s.seq.stk, ust := first }

/-- The saved registers come back with the return (R180). -/
def Seq.restore (q : Seq) : Saved → Seq
  | .none => q
  | .write i c => { q with pageI := i, chunks := c }
  | .page a b k => { q with pa := a, pb := b, k := k }

/-- Where a return to label `l` goes on: at WW2 the snapshot `sr <- ret[7:0]` is taken "on return"
(Table 44-1). -/
def Seq.resumeAt (q : Seq) (l : Label) : Seq :=
  match l with
  | .ww2 => { q with ust := .ww2, sr := byteOf 0 q.ret }
  | _ => { q with ust := l }

/-- `return`: pop the record and resume; a record that resumes by returning pops the next one too
(R180, log 16). -/
def Seq.returnVia : List Record → Seq → Option Seq
  | [], _ => none
  | r :: rs, q =>
    match r.resume with
    | .label l => some ({ q.restore r.saved with stk := rs }.resumeAt l)
    | .ret => returnVia rs (q.restore r.saved)

/-- `return` (R180); with `stk` empty it "cannot occur", and the model is stuck. -/
def State.doReturn (s : State) : Result :=
  match Seq.returnVia s.seq.stk s.seq with
  | some q => .next (s.setSeq q)
  | none => .fault .returnOnEmptyStack

/-! ### The end of a row -/

/-- One push or pop of a burst of `len` is done: count it, and after the last one apply `last` (R10,
"`n` consecutive steps"; log 17). -/
def Seq.burst (q : Seq) (len : Nat) (last : Seq → Seq) : Seq :=
  if q.k.toNat + 1 < len then { q with k := q.k + 1 } else last { q with k := 0 }

/-- After the last push of L3: `tx_rem <- tx_rem - n` (Table 45-1). -/
def Seq.afterRefill (q : Seq) : Seq :=
  { q with txRem := q.txRem - q.n.zeroExtend 32, ust := .l4 }

/-- After the last pop of L5: `off <- off + chunk`, `rx_rem <- rx_rem - chunk`; L6 has a step only if
`0 < rx_rem <= 63` (Table 45-1, log 18). -/
def Seq.afterDrain (q : Seq) : Seq :=
  let rem := q.rxRem - q.chunk.zeroExtend 32
  { q with
    off := q.off + q.chunk.zeroExtend 32
    rxRem := rem
    ust := if 0 < rem.toNat ∧ rem.toNat ≤ Config.startCap then .l6 else .l1 }

/-- SEQ's registers after the access of the row at `ust` is made: the row's local effect and the label
its "next" column names (R23). -/
def Seq.afterRow (q : Seq) : Seq :=
  match q.ust with
  | .pp3 => { q with k := 0, ust := .pp4 }
  | .pp4 => if q.k.toNat + 1 < Config.burst1 then { q with k := q.k + 1 }
      else { q with k := BitVec.ofNat 7 Config.burst1, ust := .pp5 }
  | .pp9 => q.burst Config.pageWords fun q => { q with ust := .pp10 }
  | .rd12 => q.burst q.n.toNat fun q => { q with ust := .rd13 }
  | .rd13 => { q with ust := if Config.startCap < q.count.toNat then .rd14 else .rd15 }
  | .l3 => q.burst q.n.toNat Seq.afterRefill
  | .l5 => q.burst q.chunk.toNat Seq.afterDrain
  | .l6 => { q with chunk := q.rxRem.truncate 7, ust := .l1 }
  | l => { q with ust := l.succ }

/-- The row's access is made: go on as the table says. X7 returns (Table 42-1); every other row goes to
a label. At IDLE there is no row and `ust` stays (log 20). -/
def State.advance (s : State) : Result :=
  match s.seq.ust with
  | .x7 => s.doReturn
  | _ => .next (s.setSeq s.seq.afterRow)

end Sys2Proof.Machine
end

