-- ==== Sys2Proof/Machine/Primitives.lean ====
section
/-! DEFINITION. The primitives of `41_primitives.md`: chip-select, start, thresholds, push, pop, poll.
Each is one SEQ step: its one access, then the move of `ust` to the row's successor (R23). -/

namespace Sys2Proof.Machine

/-- The common shape of CS_ON and CS_OFF: `shadow.CSLVL <- level` first, then `CtlWrite(CONFIG,
shadow)` with MSTRT = 0 (R170, R171). Reading `shadow` needs a value (R22). -/
def setChipSelect (level : CsLevel) (s : State) : Result :=
  match s.seq.shadow with
  | none => .refused .notInitialised
  | some c =>
    let c' := { c with cslvl := level }
    (ctlWriteConfig c' false (s.setSeq { s.seq with shadow := some c' })).advance

/-- CS_ON (R170). -/
def execCsOn (s : State) : Result := setChipSelect .asserted s

/-- CS_OFF (R171). -/
def execCsOff (s : State) : Result := setChipSelect .deasserted s

/-- START (R172): `CtlWrite(CONFIG, shadow with MSTRT = 1)`; `shadow` is unchanged. MSTREN = 0 is not
modelled by the spec (R281) and is refused (log 15). -/
def execStart (s : State) : Result :=
  match s.seq.shadow with
  | none => .refused .notInitialised
  | some c => if c.mstren then (ctlWriteConfig c true s).advance else .refused .autoMode

/-- SET_RXTH(n) (R173). -/
def execSetRxth (n : Nat) (s : State) : Result :=
  Result.andThen (ctlWriteRxThres n s) State.advance

/-- SET_TXTH(n) (R174). -/
def execSetTxth (n : Nat) (s : State) : Result :=
  Result.andThen (ctlWriteTxThres n s) State.advance

/-- PUSH(w, v) (R175), shared by every transmit-entry format. -/
def pushEntry (w : Width) (v : Word) (s : State) : Result := (txdWrite w v s).advance

/-- PUSH(w, v) (R175). -/
def execPush (w : Width) (v : Word) (s : State) : Result := pushEntry w v s

/-- Where the popped word goes, in the same step (R176). -/
def storePopped (dst : PopDest) (v : Word) (s : State) : Result :=
  match dst with
  | .tmp => .next (s.setSeq { s.seq with tmp := v })
  | .discard => .next s
  | .hbuf i => memWrite (s.hbuf i) v s

/-- POP (R176): `CtlRead(RXD)`, the value kept, thrown away or stored to the host buffer. -/
def execPop (dst : PopDest) (s : State) : Result :=
  Result.andThen (storePopped dst (rxdValue s) (rxdRead s)) State.advance

/-- POLL(flag) (R177): one read of STATUS; with the flag 1 go on, else stay at this step. -/
def execPoll (flag : PollFlag) (s : State) : Result :=
  if s.ctl.pollFlag flag then (ctlReadStatus s).advance else .next (ctlReadStatus s)

end Sys2Proof.Machine
end

