-- ==== Sys2Proof/Machine/Procedures.lean ====
section
/-! DEFINITION. The internal procedures as instructions: `call P(args)` pushes the return record, binds
the arguments and goes to P's first label (R180). Their rows are the step tables' (Micro.lean). -/

namespace Sys2Proof.Machine

/-- `call XFER(w, v)` (R190). -/
def execXfer (w : Width) (v : Word) (s : State) : Result :=
  let s' := s.call .x1
  .next (s'.setSeq { s'.seq with xw := w, xv := v })

/-- `call WAIT_WIP` (R240). -/
def execWaitWip (s : State) : Result := .next (s.call .ww1)

/-- `call PROGRAM_PAGE(pa, pb)` (R221). -/
def execProgramPage (pa pb : Word) (s : State) : Result :=
  let s' := s.call .pp1
  .next (s'.setSeq { s'.seq with pa := pa, pb := pb })

/-- `call RX_DRAIN` (R178). -/
def execRxDrain (s : State) : Result := .next (s.call .dr1)

end Sys2Proof.Machine
end

