-- ==== Sys2Proof/Machine/Micro.lean ====
section
/-! DEFINITION. The micro-program, "fixed" and written by no agent (R90): for each label of the step
tables, the instruction its row is (`microInstr`), or its local step where the row is no instruction of
the opcode table (`localStep`). -/

namespace Sys2Proof.Machine

/-- The row at `ust`, where it is a primitive, a transmit entry or a call of the opcode table. -/
def microInstr (s : State) : Option Instr :=
  let q := s.seq
  match q.ust with
  -- RX_DRAIN (Table 41-1)
  | .dr2 => some (.pop .discard)
  -- XFER (Table 42-1)
  | .x1 => some (.setRxth 1)
  | .x2 => some .csOn
  | .x3 => some (.push q.xw q.xv)
  | .x4 => some .start
  | .x5 => some (.poll .rxne)
  | .x6 => some .csOff
  | .x7 => some (.pop .tmp)
  -- WREN, RDSR, RDID (Table 42-3)
  | .we1 => some (.xfer .w1 (op1Word s.par.opcWren))
  | .rs1 => some (.xfer .w2 (op2Word q.opc))
  | .id1 => some (.xfer .w4 (opz4Word s.par.opcRdid))
  -- WRR, ERASE (Table 42-4)
  | .wr2 => some (.xfer .w3 (opr3Word s.par.opcWrr q.arg))
  | .er2 => some (.xfer .w4 (opa q.fop q.addr))
  | .er3 => some .waitWip
  -- WRITE (Table 43-1)
  | .wt2 =>
    if q.pageI.toNat < q.chunks.toNat then
      some (.programPage (pageAddr q.addr q.pageI) (pageBase q.pageI))
    else none
  -- PROGRAM_PAGE (Table 43-2)
  | .pp2 => some .csOn
  | .pp3 => some (.opa4 s.par.opcPp q.pa)
  | .pp4 => some (.dat4 (q.pb + q.k.zeroExtend 32))
  | .pp5 => some (.setTxth (s.par.txDepth - Config.burst2 + 1))
  | .pp6 => some .start
  | .pp7 => some (.poll .txnf)
  | .pp8 => some .rxDrain
  | .pp9 => some (.dat4 (q.pb + q.k.zeroExtend 32))
  | .pp10 => some .start
  | .pp11 => some (.setTxth Config.thresTail)
  | .pp12 => some (.poll .txnf)
  | .pp13 => some .csOff
  | .pp14 => some .rxDrain
  | .pp15 => some .waitWip
  -- READ (Table 45-1)
  | .rd1 => some (.setRxth 1)
  | .rd2 => some .csOn
  | .rd3 => some (.op1 s.par.opcRead)
  | .rd4 => some .start
  | .rd5 => some (.poll .rxne)
  | .rd6 => some (.pop .discard)
  | .rd7 => some (if s.par.readDummy then .adr4 q.addr else .adr3 q.addr)
  | .rd8 => some .start
  | .rd9 => some (.poll .rxne)
  | .rd10 => some (.pop .discard)
  | .rd12 => some .fil4
  | .rd13 => some (.setRxth q.chunk.toNat)
  | .rd14 => some (.setTxth (s.par.txDepth - Config.pumpChunk + 1))
  | .rd15 => some .start
  | .l3 => some .fil4
  | .l5 => some (.pop (.hbuf (q.off + q.k.zeroExtend 32)))
  | .l6 => some (.setRxth q.rxRem.toNat)
  | .rd16 => some .csOff
  | _ => none

/-! ### INIT (Table 40-2) -/

/-- `cfgval(m)` (R151). -/
def cfgval (p : Params) (m : Bool) : CtlConfig where
  ifmode := .flashIo
  endian := .little
  holdb := false
  mstren := m
  mancs := m
  cslvl := .deasserted
  baudsel := false
  fwidth := .w32
  baud := p.baudDiv
  cpha := p.cpha
  cpol := p.cpol
  master := true
  rsvd := 0

/-- `merge(old, c)` (R152): RSVD, ENDIAN and BAUDSEL of `old` cleared, then every field combined with
`c`'s by bitwise OR, in the coding R152 gives the enumerated fields. -/
def merge (old c : CtlConfig) : CtlConfig where
  ifmode := if old.ifmode = .flashIo ∨ c.ifmode = .flashIo then .flashIo else .legacy
  endian := c.endian
  holdb := old.holdb || c.holdb
  mstren := old.mstren || c.mstren
  mancs := old.mancs || c.mancs
  cslvl := if old.cslvl = .deasserted ∨ c.cslvl = .deasserted then .deasserted else .asserted
  baudsel := c.baudsel
  fwidth := if old.fwidth = .w32 ∨ c.fwidth = .w32 then .w32 else .other
  baud := old.baud ||| c.baud
  cpha := old.cpha || c.cpha
  cpol := old.cpol || c.cpol
  master := old.master || c.master
  rsvd := c.rsvd

/-- `manual_mode = arg[0]` (R150). -/
def Seq.manualMode (q : Seq) : Bool := q.arg.getLsbD 0

/-- IN9: `old <- CtlRead(CONFIG)`. -/
def initReadConfig (s : State) : State :=
  let s' := ctlReadConfig s
  s'.setSeq { s'.seq with old := s.ctl.config }

/-- IN10: `shadow <- merge(old, cfgval(manual_mode))`, then `CtlWrite(CONFIG, shadow)`. -/
def initWriteConfig (s : State) : State :=
  let c := merge s.seq.old (cfgval s.par s.seq.manualMode)
  ctlWriteConfig c false (s.setSeq { s.seq with shadow := some c, manual := s.seq.manualMode })

/-! ### Local steps -/

/-- `result <- v`, then DONE. -/
def State.finish (s : State) (v : Word) : State :=
  s.setSeq { s.seq with result := v, ust := .done }

/-- `ret <- v`, then `return` (WE2, RS2, ID2). -/
def returnValue (v : Word) (s : State) : Result := (s.setSeq { s.seq with ret := v }).doReturn

/-- `call RDSR(opc)` (Table 42-3). -/
def callRdsr (opc : Byte) (s : State) : State :=
  let s' := s.call .rs1
  s'.setSeq { s'.seq with opc := opc }

/-- T1: the procedure of the command (Table 42-2). -/
def callForOp (s : State) : Result :=
  match s.seq.op.toNat with
  | 4 => .next (s.call .id1)
  | 5 => .next (callRdsr s.par.opcRdsr s)
  | 6 => .next (callRdsr s.par.opcRdsr2 s)
  | 7 => .next (s.call .we1)
  | _ => .fault .noProcedureForOp

/-- RD11: the pump setup, whose one comparison is made on `count` (R253, R254). -/
def Seq.pumpSetup (q : Seq) : Seq :=
  if Config.startCap < q.count.toNat then
    { q with
      rxRem := q.count, off := 0, k := 0, ust := .rd12
      n := BitVec.ofNat 7 Config.startCap
      txRem := q.count - BitVec.ofNat 32 Config.startCap
      chunk := BitVec.ofNat 7 Config.pumpChunk }
  else
    { q with
      rxRem := q.count, off := 0, k := 0, ust := .rd12
      n := q.count.truncate 7, txRem := 0, chunk := q.count.truncate 7 }

/-- L1: terminate, or the transmit half if filler remains, or the receive half (R255, R256). -/
def Seq.pumpTurn (q : Seq) : Seq :=
  { q with ust := if q.rxRem = 0 then .rd16 else if q.txRem = 0 then .l4 else .l2 }

/-- L2: with TXNF, a burst of `n <- min(32, tx_rem)` (R255). -/
def Seq.refill (q : Seq) (txnf : Bool) : Seq :=
  if txnf then
    { q with n := BitVec.ofNat 7 (min Config.pumpChunk q.txRem.toNat), k := 0, ust := .l3 }
  else { q with ust := .l4 }

/-- L4: with RXNE, drain a chunk, else go round (R255). -/
def Seq.drain (q : Seq) (rxne : Bool) : Seq :=
  if rxne then { q with k := 0, ust := .l5 } else { q with ust := .l1 }

/-- The rows that are no instruction of the opcode table: INIT's accesses, status tests, local
computations, calls of WREN, RDSR and RDID, returns (R10). -/
def localStep (s : State) : Result :=
  let q := s.seq
  match q.ust with
  -- DONE (R115)
  | .done => .next (s.setSeq { q with busy := false, ust := .idle })
  -- INIT (Table 40-2)
  | .in1 => (ctlWriteEn false s).advance
  | .in2 => (platUnlock s).advance
  | .in3 => (platSetReset s).advance
  | .in4 => (platClearReset s).advance
  | .in5 => (platLock s).advance
  | .in6 => Result.andThen (ctlWriteRxThres Config.thresInit s) State.advance
  | .in7 => Result.andThen (ctlWriteTxThres Config.thresInit s) State.advance
  | .in8 => (ctlWriteLinear false s).advance
  | .in9 => (initReadConfig s).advance
  | .in10 => (initWriteConfig s).advance
  | .in11 => .next ((ctlWriteEn true s).finish 0)
  -- RX_DRAIN (Table 41-1)
  | .dr1 => if s.ctl.rxne then .next ((ctlReadStatus s).goto .dr2) else (ctlReadStatus s).doReturn
  -- WREN, RDSR, RDID (Table 42-3)
  | .we2 => returnValue ((hi8 q.tmp).zeroExtend 32) s
  | .rs2 => returnValue ((hi8 q.tmp).zeroExtend 32) s
  | .id2 => returnValue ((id24 q.tmp).zeroExtend 32) s
  -- WRR, ERASE (Table 42-4)
  | .wr1 => .next (s.call .we1)
  | .wr3 => .next (s.finish 0)
  | .er1 => .next (s.call .we1)
  | .er4 => .next (s.finish 0)
  -- the wrapper (Table 42-2)
  | .t1 => callForOp s
  | .t2 => .next (s.finish q.ret)
  -- WRITE (Table 43-1)
  | .wt1 => .next (s.setSeq { q with chunks := chunksOf q.count, pageI := 0, ust := .wt2 })
  | .wt2 => .next (s.finish 0)
  | .wt3 => .next (s.setSeq { q with pageI := q.pageI + 1, ust := .wt2 })
  -- PROGRAM_PAGE (Table 43-2)
  | .pp1 => .next (s.call .we1)
  -- WAIT_WIP (Table 44-1)
  | .ww1 => .next (callRdsr s.par.opcRdsr s)
  | .ww2 => if q.sr &&& s.par.wipMask = 0 then s.doReturn else .next (s.goto .ww1)
  -- READ (Table 45-1)
  | .rd0 => if q.count = 0 then .next (s.finish 0) else .next (s.goto .rd1)
  | .rd11 => .next (s.setSeq q.pumpSetup)
  | .l1 => .next (s.setSeq q.pumpTurn)
  | .l2 => .next ((ctlReadStatus s).setSeq (q.refill s.ctl.txnf))
  | .l4 => .next ((ctlReadStatus s).setSeq (q.drain s.ctl.rxne))
  | .rd17 => .next (s.finish q.off)
  -- every other row is an instruction (`microInstr`), or there is no row (IDLE)
  | .idle
  | .dr2 | .x1 | .x2 | .x3 | .x4 | .x5 | .x6 | .x7 | .we1 | .rs1 | .id1 | .wr2 | .er2 | .er3
  | .pp2 | .pp3 | .pp4 | .pp5 | .pp6 | .pp7 | .pp8 | .pp9 | .pp10 | .pp11 | .pp12 | .pp13 | .pp14
  | .pp15 | .rd1 | .rd2 | .rd3 | .rd4 | .rd5 | .rd6 | .rd7 | .rd8 | .rd9 | .rd10 | .rd12 | .rd13
  | .rd14 | .rd15 | .rd16 | .l3 | .l5 | .l6 => .next s

end Sys2Proof.Machine
end

