-- ==== Sys2Proof/Machine/Load.lean ====
section
/-! DEFINITION. Placing one instruction where the next step fetches it (log 2): a descriptor is HOST's
pending move, a wire opcode is the head of TXQ. -/

namespace Sys2Proof.Machine

/-- What INIT with `manual_mode = 1` leaves in the controller and in `shadow` (R156), for a machine in
which no such INIT has run: a command other than INIT is accepted only then (R113). -/
def State.booted (s : State) : State :=
  if s.transferRefusal = none then s
  else
    let c := merge s.par.cfgReset (cfgval s.par true)
    { s with
      seq := { s.seq with shadow := some c, manual := true }
      ctl := {
        en := true, config := c, linear := false, rxThres := 1, txThres := 1, txq := [], rxq := []
        running := false } }

/-- The descriptor is HOST's next move, SEQ is idle and it is HOST's turn. INIT needs nothing more;
every other command needs an initialised controller. -/
def State.withDescriptor (s : State) (d0 d1 d2 d3 : Word) : State :=
  let b := if d0.extractLsb' 0 8 = 0 then s else s.booted
  { b with
    seq := { b.seq with ust := .idle, busy := false }
    host := { b.host with moves := [.command d0 d1 d2 d3] }
    sched := { b.sched with turns := [.host] } }

/-- The opcode is the one byte of the entry at the head of TXQ, a transaction is started, RXQ has room
and it is ENG's turn: ENG fetches what it sends from TXQ (R280). -/
def State.withOpcode (s : State) (b : Byte) : State :=
  let t := s.booted
  { t with
    ctl := { t.ctl with
      en := true, running := true
      rxq := if t.ctl.rxq.length < t.par.rxDepth then t.ctl.rxq else []
      txq := { width := .w1, value := b.zeroExtend 32 } :: t.ctl.txq }
    sched := { t.sched with turns := [.eng] } }

end Sys2Proof.Machine
end

