-- ==== Sys2Proof/Decode.lean ====
section
/-! DEFINITION. The decoder of command descriptors and of wire opcodes, total and rejecting by name,
and after it the encoder, written from the same tables (`spec/30_encoding.md`). -/

namespace Sys2Proof

/-- The three encodings of `30_encoding.md`: a command descriptor (Table 30-1), a transmit entry (the
port written and its value, Table 30-4), a wire opcode, byte 0 of a frame (Table 30-5). -/
inductive Code where
  | descriptor (d0 d1 d2 d3 : Word)
  | entry (port : Width) (v : Word)
  | opcode (b : Byte)
  deriving DecidableEq, Repr

/-- The opcodes of Table 30-5 that have no row in `opcode_table.json`. SEQ sends none of them of its own;
each reaches the wire as the FOP of an ERASE or as the value of an opcode parameter (R122), as the byte
it is. RDSR2's and CE's second codes are among them. -/
inductive OtherOpcode where
  | rems | rdsr2Alt | fastRead | dor | qor | qpp | ceAlt
  deriving DecidableEq, Repr

/-- The byte of such an opcode, a parameter (R122, G2). -/
def Params.otherByte (p : Params) : OtherOpcode → Byte
  | .rems => p.opcRems
  | .rdsr2Alt => p.opcRdsr2Alt
  | .fastRead => p.opcFastRead
  | .dor => p.opcDor
  | .qor => p.opcQor
  | .qpp => p.opcQpp
  | .ceAlt => p.opcCeAlt

/-- The opcode without a row that a byte is. -/
def Params.otherOpcode (p : Params) (b : Byte) : Option OtherOpcode :=
  [OtherOpcode.rems, .rdsr2Alt, .fastRead, .dor, .qor, .qpp, .ceAlt].find? fun o =>
    p.otherByte o == b

/-- Why a code is no instruction. -/
inductive DecodeError where
  /-- D0[7:4] is not 0: "RSV is the exception: it must be 0" (R112). -/
  | reservedBits
  /-- The byte is the opcode `o` of Table 30-5, which has no row in `opcode_table.json`. -/
  | hasNoRow (o : OtherOpcode)
  /-- The byte is none of the opcodes of Table 30-5. -/
  | notAnOpcode
  /-- An entry does not say its format: ENG takes it as `(n, v)` and nothing decodes it (R75). -/
  | entryHasNoFormat
  deriving DecidableEq, Repr

/-- The fields of a descriptor (Table 30-1). -/
def descOf (d0 d1 d2 d3 : Word) : Desc where
  fop := d0.extractLsb' 8 8
  arg := d0.extractLsb' 16 16
  addr := d1
  ptr := d2
  count := d3

/-- OP's sixteen values (Table 30-2; 9..15 reserved). -/
def commandOf (op : BitVec 4) (d : Desc) : Instr :=
  match op.toNat with
  | 0 => .init d
  | 1 => .read d
  | 2 => .write d
  | 3 => .erase d
  | 4 => .readId d
  | 5 => .readSr d
  | 6 => .readSr2 d
  | 7 => .wren d
  | 8 => .wrr d
  | 9 => .reserved9 d
  | 10 => .reserved10 d
  | 11 => .reserved11 d
  | 12 => .reserved12 d
  | 13 => .reserved13 d
  | 14 => .reserved14 d
  | _ => .reserved15 d

/-- A command is four words; OP is D0[3:0] and RSV, D0[7:4], must be 0 (R110, R112). -/
def decodeCommand (d0 d1 d2 d3 : Word) : Except DecodeError Instr :=
  if d0.extractLsb' 4 4 = 0 then .ok (commandOf (d0.extractLsb' 0 4) (descOf d0 d1 d2 d3))
  else .error .reservedBits

/-- The wire opcode a byte is, under the opcode parameters (R122, Table 30-5). -/
def decodeOpcode (p : Params) (b : Byte) : Except DecodeError Instr :=
  if b = p.opcRdid then .ok .wireRdid
  else if b = p.opcRdsr then .ok .wireRdsr
  else if b = p.opcRdsr2 then .ok .wireRdsr2
  else if b = p.opcWren then .ok .wireWren
  else if b = p.opcWrr then .ok .wireWrr
  else if b = p.opcRead then .ok .wireRead
  else if b = p.opcPp then .ok .wirePp
  else if b = p.opcSe then .ok .wireSe
  else if b = p.opcBe then .ok .wireBe
  else if b = p.opcCe then .ok .wireCe
  else
    match p.otherOpcode b with
    | some o => .error (.hasNoRow o)
    | none => .error .notAnOpcode

/-- The decoder, total on every code. -/
def decode (p : Params) : Code → Except DecodeError Instr
  | .descriptor d0 d1 d2 d3 => decodeCommand d0 d1 d2 d3
  | .entry _ _ => .error .entryHasNoFormat
  | .opcode b => decodeOpcode p b

/-- A row of the table that is one byte wide and has a nonzero high nibble can only be a wire opcode:
as D0 it would have RSV not 0. Every other word is a descriptor's (log 22). -/
def isWireRow (nbits w : Nat) : Bool := decide (nbits ≤ 8 ∧ 16 ≤ w ∧ w < 256)

/-- The code whose bits are `w`, numbered from bit 0 of the first word: D0 is bits 31:0, D1 bits 63:32,
D2 bits 95:64, D3 bits 127:96 (R110). -/
def codeOfBits (nbits w : Nat) : Code :=
  if isWireRow nbits w then .opcode (BitVec.ofNat 8 w)
  else .descriptor (BitVec.ofNat 32 w) (BitVec.ofNat 32 (w >>> 32)) (BitVec.ofNat 32 (w >>> 64))
    (BitVec.ofNat 32 (w >>> 96))

/-- The instruction the decoder reads from an instruction whose bits are `w`. -/
def decodeTableWord (nbits w : Nat) : Option Instr :=
  (decode Config.defaults (codeOfBits nbits w)).toOption

/-! ### The encoder -/

/-- D0 of a descriptor: ARG, FOP, RSV = 0, OP from the most significant end (Table 30-1). -/
def encodeD0 (op : BitVec 4) (d : Desc) : Word := d.arg ++ d.fop ++ (0 : BitVec 4) ++ op

/-- A descriptor (Table 30-1). -/
def encodeCommand (op : BitVec 4) (d : Desc) : Code :=
  .descriptor (encodeD0 op d) d.addr d.ptr d.count

/-- The code of an instruction. The internal procedures and primitives have "no operation number" and
no bit pattern (R127); DAT4's value is a word of the host buffer, not of the instruction (Table
30-4). -/
def encode (p : Params) : Instr → Option Code
  | .init d => some (encodeCommand 0 d)
  | .read d => some (encodeCommand 1 d)
  | .write d => some (encodeCommand 2 d)
  | .erase d => some (encodeCommand 3 d)
  | .readId d => some (encodeCommand 4 d)
  | .readSr d => some (encodeCommand 5 d)
  | .readSr2 d => some (encodeCommand 6 d)
  | .wren d => some (encodeCommand 7 d)
  | .wrr d => some (encodeCommand 8 d)
  | .reserved9 d => some (encodeCommand 9 d)
  | .reserved10 d => some (encodeCommand 10 d)
  | .reserved11 d => some (encodeCommand 11 d)
  | .reserved12 d => some (encodeCommand 12 d)
  | .reserved13 d => some (encodeCommand 13 d)
  | .reserved14 d => some (encodeCommand 14 d)
  | .reserved15 d => some (encodeCommand 15 d)
  | .xfer _ _ | .waitWip | .programPage _ _ | .rxDrain => none
  | .csOn | .csOff | .start | .setRxth _ | .setTxth _ | .push _ _ | .pop _ | .poll _ => none
  | .op1 o => some (.entry .w1 (Machine.op1Word o))
  | .op2 o => some (.entry .w2 (Machine.op2Word o))
  | .opr3 o arg => some (.entry .w3 (Machine.opr3Word o arg))
  | .adr3 a => some (.entry .w3 (Machine.adr3Word a))
  | .adr4 a => some (.entry .w4 (Machine.adr4Word a))
  | .opa4 o a => some (.entry .w4 (Machine.opa o a))
  | .opz4 o => some (.entry .w4 (Machine.opz4Word o))
  | .dat4 _ => none
  | .fil4 => some (.entry .w4 p.filler)
  | .wireRdid => some (.opcode p.opcRdid)
  | .wireRdsr => some (.opcode p.opcRdsr)
  | .wireRdsr2 => some (.opcode p.opcRdsr2)
  | .wireWren => some (.opcode p.opcWren)
  | .wireWrr => some (.opcode p.opcWrr)
  | .wireRead => some (.opcode p.opcRead)
  | .wirePp => some (.opcode p.opcPp)
  | .wireSe => some (.opcode p.opcSe)
  | .wireBe => some (.opcode p.opcBe)
  | .wireCe => some (.opcode p.opcCe)

/-- The ten wire opcodes of the table under the parameters `p`. -/
def wireOpcodes (p : Params) : List Byte :=
  [p.opcRdid, p.opcRdsr, p.opcRdsr2, p.opcWren, p.opcWrr, p.opcRead, p.opcPp, p.opcSe, p.opcBe,
    p.opcCe]

/-- No two of the wire opcodes are the same byte, as with the defaults of Table 00-2. -/
abbrev Params.OpcodesDistinct (p : Params) : Prop := (wireOpcodes p).Nodup

end Sys2Proof
end

