-- ==== Sys2Proof/Machine/Entries.lean ====
section
/-! DEFINITION. The transmit-entry formats of Table 30-4: each is one PUSH of the formatted value
through the format's port (R116; log 21). -/

namespace Sys2Proof.Machine

/-- OP1: `o` through TXD_W1 (R116). -/
def execOp1 (o : Byte) (s : State) : Result := pushEntry .w1 (op1Word o) s

/-- OP2: `o` and a zero byte through TXD_W2 (R116). -/
def execOp2 (o : Byte) (s : State) : Result := pushEntry .w2 (op2Word o) s

/-- OPR3: `o`, `arg[7:0]`, `arg[15:8]` through TXD_W3 (R116). -/
def execOpr3 (o : Byte) (arg : BitVec 16) (s : State) : Result := pushEntry .w3 (opr3Word o arg) s

/-- ADR3: `rev24(addr)` through TXD_W3 (R117). -/
def execAdr3 (addr : Word) (s : State) : Result := pushEntry .w3 (adr3Word addr) s

/-- ADR4: `rev24(addr)` and a zero byte through TXD_W4 (R117). -/
def execAdr4 (addr : Word) (s : State) : Result := pushEntry .w4 (adr4Word addr) s

/-- OPA4: `opa(o, addr)` through TXD_W4 (R119). -/
def execOpa4 (o : Byte) (addr : Word) (s : State) : Result := pushEntry .w4 (opa o addr) s

/-- OPZ4: `o` and three zero bytes through TXD_W4 (R116). -/
def execOpz4 (o : Byte) (s : State) : Result := pushEntry .w4 (opz4Word o) s

/-- DAT4: `HBuf[i]` through TXD_W4, read in the same step (R10, R116, R175). There is no word at an
address that is no multiple of 4 (R71, log 12). -/
def execDat4 (i : Word) (s : State) : Result :=
  if aligned (s.hbuf i) then pushEntry .w4 (s.hmem.readWord (s.hbuf i)) s
  else .refused .misalignedPtr

/-- FIL4: FILLER through TXD_W4 (R116). -/
def execFil4 (s : State) : Result := pushEntry .w4 s.par.filler s

end Sys2Proof.Machine
end

