-- ==== Sys2Proof/Machine/Engine.lean ====
section
/-! DEFINITION. ENG's shift (R280 to R282) and DEV's answers (R283). -/

namespace Sys2Proof.Machine

/-! ### DEV -/

/-- The bytes sent since the last `CS1`, oldest first; `none` while chip-select is deasserted. -/
def frameSent (wire : List WireEvent) : Option (List Byte) :=
  wire.foldl (fun f e => match e with
    | .cs1 => some []
    | .cs0 => none
    | .byte b _ => f.map (· ++ [b])) none

/-- The address PatDev forms from bytes 2 to 4 of a frame, first byte most significant; only its low
byte matters to the answers (R283). -/
def patAddr (sent : List Byte) : BitVec 24 :=
  sent.getD 1 0 ++ sent.getD 2 0 ++ sent.getD 3 0

/-- PatDev's answer to the byte being sent after the bytes `sent` of the frame (R283). The first byte
of a frame is answered `FF`. -/
def patAnswer (p : Params) (script : List Byte) (sent : List Byte) : Byte :=
  match sent with
  | [] => 0xFF
  | first :: _ =>
    if (first = p.opcRdsr ∨ first = p.opcRdsr2) ∧ sent.length = 1 then script.headD 0x00
    else if first = p.opcRdid ∧ sent.length = 1 then 0x01
    else if first = p.opcRdid ∧ sent.length = 2 then 0x20
    else if first = p.opcRdid ∧ sent.length = 3 then 0x18
    else if first = p.opcRead ∧ p.readDummy = false ∧ 4 ≤ sent.length then
      (patAddr sent).truncate 8 + BitVec.ofNat 8 (sent.length - 4)
    else 0xFF

/-- A status script loses a value when a status frame's second byte is answered (R283). -/
def patScriptAfter (p : Params) (script : List Byte) (sent : List Byte) : List Byte :=
  match sent with
  | [first] => if first = p.opcRdsr ∨ first = p.opcRdsr2 then script.tail else script
  | _ => script

/-- The byte received for the byte `b` now being sent (R283). Any device at all is the oracle; PatDev
too answers from it while it is not selected (R280). -/
def State.answer (s : State) (b : Byte) : Byte :=
  match s.dev, frameSent s.wire with
  | .patDev script, some sent => patAnswer s.par script sent
  | _, _ => Config.device s.wire b

/-- The device after it has answered. -/
def State.deviceAfter (s : State) : Device :=
  match s.dev, frameSent s.wire with
  | .patDev script, some sent => .patDev (patScriptAfter s.par script sent)
  | d, _ => d

/-- One byte exchange: send `b`, obtain DEV's answer, append `b/r` to WIRE (R280). -/
def exchange (b : Byte) (s : State) : State :=
  { s.emit [.byte b (s.answer b)] with dev := s.deviceAfter }

/-- The exchanges of one entry, in order, with the bytes received (R280). -/
def exchangeAll : List Byte → State → State × List Byte
  | [], s => (s, [])
  | b :: bs, s =>
    let rest := exchangeAll bs (exchange b s)
    (rest.1, s.answer b :: rest.2)

/-! ### Shift -/

/-- ENG's shift is enabled exactly when EN = 1, `running = 1`, TXQ is not empty and, under `stall`,
RXQ has room (R280). -/
def State.engEnabled (s : State) : Bool :=
  s.ctl.en && s.ctl.running && !s.ctl.txq.isEmpty
    && (match s.par.rxFullPolicy with
        | .fault => true
        | .stall => decide (s.ctl.rxq.length < s.par.rxDepth))

/-- Delivery to RXQ (R282): append, or, when RXQ is full, lose the word and set `rx_overrun`. -/
def deliver (w : Word) (s : State) : State :=
  if s.ctl.rxq.length < s.par.rxDepth then s.setCtl { s.ctl with rxq := s.ctl.rxq ++ [w] }
  else { s with flags := { s.flags with rxOverrun := true } }

/-- Under EMPTY_POLICY = `stop` the shift that empties TXQ clears `running` (R280, R281). -/
def runningAfterShift (p : Params) (txq : List TxEntry) (running : Bool) : Bool :=
  match p.emptyPolicy with
  | .stop => if txq.isEmpty then false else running
  | .continue => running

/-- One shift of the head entry `e`, `q` being the entries behind it (R280). -/
def shiftEntry (e : TxEntry) (q : List TxEntry) (s : State) : State :=
  let x := exchangeAll (sentBytes e.width e.value) s
  deliver (rxWord x.2)
    (x.1.setCtl { x.1.ctl with txq := q, running := runningAfterShift s.par q s.ctl.running })

/-- Why a shift has no rule in the spec: ENDIAN = `big` (U9), FWIDTH = `other` (Table 10-2), LINEAR = 1
(R30); log 14. -/
def State.shiftRefusal (s : State) : Option Refusal :=
  if s.ctl.config.endian = .big then some .endianBig
  else if s.ctl.config.fwidth = .other then some .fifoWidthOther
  else if s.ctl.linear = true then some .linearMode
  else none

/-- ENG's step (R280); not enabled, it takes none and the state stays. -/
def engStep (s : State) : Result :=
  if s.engEnabled then
    match s.shiftRefusal, s.ctl.txq with
    | some r, _ => .refused r
    | none, e :: q => .next (shiftEntry e q s)
    | none, [] => .next s
  else .next s

end Sys2Proof.Machine
end

