-- ==== Sys2Proof/Machine/WireOpcodes.lean ====
section
/-! DEFINITION. The wire opcodes of Table 30-5: byte 0 of a frame. SEQ does not interpret them and DEV
is an oracle (R283), so the meaning of each is the byte exchange ENG makes for it (R280; log 22). -/

namespace Sys2Proof.Machine

/-- The opcode byte goes out and DEV's answer comes in (R280, R283). -/
def sendOpcode (b : Byte) (s : State) : Result := .next (exchange b s)

/-- RDID, parameter OPC_RDID (R122). -/
def execWireRdid (s : State) : Result := sendOpcode s.par.opcRdid s

/-- RDSR, parameter OPC_RDSR (R122). -/
def execWireRdsr (s : State) : Result := sendOpcode s.par.opcRdsr s

/-- RDSR2 / RDCR, parameter OPC_RDSR2 (R122). -/
def execWireRdsr2 (s : State) : Result := sendOpcode s.par.opcRdsr2 s

/-- WREN, parameter OPC_WREN (R122). -/
def execWireWren (s : State) : Result := sendOpcode s.par.opcWren s

/-- WRR, parameter OPC_WRR (R122). -/
def execWireWrr (s : State) : Result := sendOpcode s.par.opcWrr s

/-- READ, parameter OPC_READ (R122). -/
def execWireRead (s : State) : Result := sendOpcode s.par.opcRead s

/-- PP, parameter OPC_PP (R122). -/
def execWirePp (s : State) : Result := sendOpcode s.par.opcPp s

/-- SE, sector erase, the FOP of an ERASE; a parameter (R122, G2). -/
def execWireSe (s : State) : Result := sendOpcode s.par.opcSe s

/-- BE, block erase, the FOP of an ERASE; a parameter (R122, G2). -/
def execWireBe (s : State) : Result := sendOpcode s.par.opcBe s

/-- CE, chip erase, the FOP of an ERASE; a parameter (R122, R197, G2). -/
def execWireCe (s : State) : Result := sendOpcode s.par.opcCe s

end Sys2Proof.Machine
end

