-- ==== Sys2Proof/Machine/Dispatch.lean ====
section
/-! DEFINITION. The dispatch from instructions to their meanings, one arm per constructor of Instr. -/

namespace Sys2Proof.Machine

def exec (i : Instr) (s : State) : Host.Outcome State Fault Refusal :=
  match i with
  | .init d => Sys2Proof.Machine.execInit d s
  | .read d => Sys2Proof.Machine.execRead d s
  | .write d => Sys2Proof.Machine.execWrite d s
  | .erase d => Sys2Proof.Machine.execErase d s
  | .readId d => Sys2Proof.Machine.execReadId d s
  | .readSr d => Sys2Proof.Machine.execReadSr d s
  | .readSr2 d => Sys2Proof.Machine.execReadSr2 d s
  | .wren d => Sys2Proof.Machine.execWren d s
  | .wrr d => Sys2Proof.Machine.execWrr d s
  | .reserved9 d => Sys2Proof.Machine.execReserved9 d s
  | .reserved10 d => Sys2Proof.Machine.execReserved10 d s
  | .reserved11 d => Sys2Proof.Machine.execReserved11 d s
  | .reserved12 d => Sys2Proof.Machine.execReserved12 d s
  | .reserved13 d => Sys2Proof.Machine.execReserved13 d s
  | .reserved14 d => Sys2Proof.Machine.execReserved14 d s
  | .reserved15 d => Sys2Proof.Machine.execReserved15 d s
  | .xfer w v => Sys2Proof.Machine.execXfer w v s
  | .waitWip => Sys2Proof.Machine.execWaitWip s
  | .programPage pa pb => Sys2Proof.Machine.execProgramPage pa pb s
  | .rxDrain => Sys2Proof.Machine.execRxDrain s
  | .csOn => Sys2Proof.Machine.execCsOn s
  | .csOff => Sys2Proof.Machine.execCsOff s
  | .start => Sys2Proof.Machine.execStart s
  | .setRxth n => Sys2Proof.Machine.execSetRxth n s
  | .setTxth n => Sys2Proof.Machine.execSetTxth n s
  | .push w v => Sys2Proof.Machine.execPush w v s
  | .pop dst => Sys2Proof.Machine.execPop dst s
  | .poll flag => Sys2Proof.Machine.execPoll flag s
  | .op1 o => Sys2Proof.Machine.execOp1 o s
  | .op2 o => Sys2Proof.Machine.execOp2 o s
  | .opr3 o arg => Sys2Proof.Machine.execOpr3 o arg s
  | .adr3 addr => Sys2Proof.Machine.execAdr3 addr s
  | .adr4 addr => Sys2Proof.Machine.execAdr4 addr s
  | .opa4 o addr => Sys2Proof.Machine.execOpa4 o addr s
  | .opz4 o => Sys2Proof.Machine.execOpz4 o s
  | .dat4 idx => Sys2Proof.Machine.execDat4 idx s
  | .fil4 => Sys2Proof.Machine.execFil4 s
  | .wireRdid => Sys2Proof.Machine.execWireRdid s
  | .wireRdsr => Sys2Proof.Machine.execWireRdsr s
  | .wireRdsr2 => Sys2Proof.Machine.execWireRdsr2 s
  | .wireWren => Sys2Proof.Machine.execWireWren s
  | .wireWrr => Sys2Proof.Machine.execWireWrr s
  | .wireRead => Sys2Proof.Machine.execWireRead s
  | .wirePp => Sys2Proof.Machine.execWirePp s
  | .wireSe => Sys2Proof.Machine.execWireSe s
  | .wireBe => Sys2Proof.Machine.execWireBe s
  | .wireCe => Sys2Proof.Machine.execWireCe s

end Sys2Proof.Machine
end

