-- ==== Sys2Proof/Machine/Schedule.lean ====
section
/-! DEFINITION. Who moves next (R85, R286; log 1), and HOST's moves other than commands (R285). -/

namespace Sys2Proof.Machine

/-- The rows that are a `CtlRead(STATUS)`: the polls, RX_DRAIN's test and the pump's two tests. -/
def Label.readsStatus : Label → Bool
  | .x5 | .rd5 | .rd9 | .pp7 | .pp12 | .dr1 | .l2 | .l4 => true
  | _ => false

/-- With no turn for ENG due, SEQ moves whenever `ust` is not IDLE (R286), else HOST may (R285). -/
def State.seqOrHost (s : State) : Agent := if s.seq.ust = .idle then .host else .seq

/-- The agent that moves in the next step: the next listed turn; with none listed, S-POLL gives ENG
one shift right after a STATUS read, S-EAGER gives ENG every shift that is enabled (R286), and the two
other modes say it themselves. -/
def State.nextAgent (s : State) : Agent :=
  match s.sched.turns with
  | a :: _ => a
  | [] =>
    match s.sched.mode with
    | .sPoll => if s.sched.polled && s.engEnabled then .eng else s.seqOrHost
    | .sEager => if s.engEnabled then .eng else s.seqOrHost
    | .cycle (a :: _) => a
    | .cycle [] => s.seqOrHost
    | .free i => Config.freeTurn i

/-- The mode once it has given a turn: a cycle turns, a free schedule counts. -/
def SchedMode.after : SchedMode → SchedMode
  | .sPoll => .sPoll
  | .sEager => .sEager
  | .cycle [] => .cycle []
  | .cycle (a :: l) => .cycle (l ++ [a])
  | .free i => .free (i + 1)

/-- The schedule after this turn: the turn is taken from the list or, with none listed, from the mode,
and it is noted whether it is SEQ's and reads STATUS. -/
def State.tick (s : State) : State :=
  { s with sched := {
      turns := s.sched.turns.tail
      mode := if s.sched.turns.isEmpty then s.sched.mode.after else s.sched.mode
      polled := s.nextAgent == .seq && s.seq.ust.readsStatus } }

/-- HOST's pending moves become `ms`. -/
def State.setMoves (s : State) (ms : List HostMove) : State :=
  { s with host := { s.host with moves := ms } }

/-- HOST has read the value `v`. -/
def State.observe (s : State) (v : Word) : State :=
  { s with host := { s.host with seen := s.host.seen ++ [v] } }

/-- HOST's move is refused: the state is unchanged, and HOST has met the refusal (R113, Table 60-1; log
3). -/
def State.refuse (s : State) (e : Refusal) : State :=
  { s with host := { s.host with refusals := s.host.refusals ++ [e] } }

/-- The outcome of HOST's move at `s`: a refusal takes nothing from the run (R300, Table 60-1). -/
def hostOutcome (s : State) (r : Result) : Result :=
  match r with
  | .next t => .next t
  | .fault e => .fault e
  | .refused e => .next (s.refuse e)

/-- HOST's moves (b) and (c) of R285, only while SEQ is idle; any access while a command runs is
refused (U16). -/
def hostRead (v : Word) (s : State) : Result :=
  if s.seq.busy = false ∧ s.seq.ust = .idle then .next (s.observe v) else .refused .busy

/-- HOST reads the word of HMEM at `a`, a multiple of 4 (R71, R285). -/
def hostMemRead (a : Word) (s : State) : Result :=
  Result.andThen (hostRead (s.hmem.readWord a) s) fun t =>
    if aligned a then .next t else .refused .misalignedPtr

/-- HOST writes the word of HMEM at `a`, a multiple of 4 (R71, R285). -/
def hostMemWrite (a v : Word) (s : State) : Result :=
  if s.seq.busy = false ∧ s.seq.ust = .idle then memWrite a v s else .refused .busy

end Sys2Proof.Machine
end

