-- ==== Sys2Proof/Machine/Turns.lean ====
section
/-! DEFINITION. What each agent does when it is its turn: SEQ runs the row at `ust`, HOST its oldest
pending move, ENG shifts (R2, R85, R285). -/

namespace Sys2Proof.Machine

/-- SEQ's turn: the row at `ust`, an instruction of the opcode table or a local step. -/
def seqTurn (s : State) : Host.Outcome State Fault Refusal :=
  match microInstr s with
  | some i => exec i s
  | none => localStep s

/-- HOST hands over a descriptor: the accept step of the command it encodes (R114); RSV not 0 is
`refuse reserved_op` (R113). -/
def hostCommand (d0 d1 d2 d3 : Word) (s : State) : Host.Outcome State Fault Refusal :=
  match decodeCommand d0 d1 d2 d3 with
  | .ok i => exec i s
  | .error _ => .refused .reservedOp

/-- One of HOST's moves (R285). -/
def hostMove (m : HostMove) (s : State) : Host.Outcome State Fault Refusal :=
  match m with
  | .command d0 d1 d2 d3 => hostCommand d0 d1 d2 d3 s
  | .readResult => hostRead s.seq.result s
  | .memRead a => hostMemRead a s
  | .memWrite a v => hostMemWrite a v s

/-- HOST makes the move; refused, it leaves the state unchanged and the run goes on (R113, V30-4). -/
def hostMakes (m : HostMove) (s : State) : Host.Outcome State Fault Refusal :=
  hostOutcome s (hostMove m s)

/-- HOST's turn: its oldest pending move (R285); with none it issues nothing. -/
def hostTurn (s : State) : Host.Outcome State Fault Refusal :=
  match s.host.moves with
  | [] => .next s
  | m :: ms => hostMakes m (s.setMoves ms)

/-- The turn of an agent (R85). -/
def agentTurn (a : Agent) (s : State) : Host.Outcome State Fault Refusal :=
  match a with
  | .seq => seqTurn s
  | .eng => engStep s
  | .host => hostTurn s

end Sys2Proof.Machine
end

