-- ==== Sys2Proof/Machine/Step.lean ====
section
/-! DEFINITION. One step of the machine: the agent whose turn it is moves (R85, R286). -/

namespace Sys2Proof.Machine

/-- One step: take the turn from the schedule, then the agent moves. -/
def step (s : State) : Host.Outcome State Fault Refusal :=
  agentTurn s.nextAgent s.tick

/-- `s` with the instruction whose bits are `w` stored where the next step fetches it. -/
def State.withFetchWord (s : State) (nbits w : Nat) : State :=
  match codeOfBits nbits w with
  | .descriptor d0 d1 d2 d3 => s.withDescriptor d0 d1 d2 d3
  | .opcode b => s.withOpcode b
  | .entry _ _ => s

end Sys2Proof.Machine
end

