-- ==== Sys2Proof/Safety.lean ====
section
/-! DEFINITION. What counts as a safe run, in the terms claims use: the final states, the invariants the
spec states of every run, and the stack discipline of the step tables. -/

namespace Sys2Proof.Machine

/-- No fault flag is set (R38, R287). -/
def FaultFlags.clear (f : FaultFlags) : Bool := !f.txOverflow && !f.rxUnderflow && !f.rxOverrun

/-- A finite run is final when SEQ is idle, no fault flag is set and HOST issues nothing more (R287). -/
def State.final (s : State) : Bool :=
  s.seq.ust == .idle && !s.seq.busy && s.flags.clear && s.host.moves.isEmpty

/-- The idle invariant of R42: both FIFOs empty, nothing running, chip-select deasserted, ENG enabled. -/
def State.Quiescent (s : State) : Prop :=
  s.ctl.txq = [] ∧ s.ctl.rxq = [] ∧ s.ctl.running = false ∧ s.ctl.config.cslvl = .deasserted ∧
    s.ctl.en = true

/-- The rows of INIT between the reset pulse and the write of CONFIG, where CONFIG holds CFG_RESET
and `shadow` an older value. -/
def Label.insideReset : Label → Bool
  | .in4 | .in5 | .in6 | .in7 | .in8 | .in9 | .in10 => true
  | _ => false

/-- The shadow invariant of R41: outside those rows every stored field of CONFIG equals the same field
of `shadow`. -/
def State.ShadowInvariant (s : State) : Prop :=
  s.seq.ust.insideReset = false → ∀ c, s.seq.shadow = some c → s.ctl.config = c

/-- Neither FIFO holds more than its capacity (R35). -/
def State.FifosBounded (s : State) : Prop :=
  s.ctl.txq.length ≤ s.par.txDepth ∧ s.ctl.rxq.length ≤ s.par.rxDepth

/-- `new` has every flag that `old` has: the flags are sticky (R38). -/
def FaultFlags.Grows (old new : FaultFlags) : Prop :=
  (old.txOverflow = true → new.txOverflow = true) ∧
    (old.rxUnderflow = true → new.rxUnderflow = true) ∧
      (old.rxOverrun = true → new.rxOverrun = true)

/-! ### Runs (R286) -/

/-- One move of a run: a step of SEQ, a shift of ENG, or a move of HOST, of whatever HOST chooses. -/
inductive Move where
  | seq
  | eng
  | host (m : HostMove)
  deriving DecidableEq, Repr

/-- What a move does. -/
def Move.take (m : Move) (s : State) : Result :=
  match m with
  | .seq => seqTurn s
  | .eng => engStep s
  | .host h => hostMakes h s

/-- An infinite run: any schedule, any device, any commands (R286). A move that is not enabled leaves the
state as it is, so a run that ends is one that goes on so for ever. -/
def IsRun (r : Nat → State) (m : Nat → Move) : Prop :=
  ∀ n, (m n).take (r n) = .next (r (n + 1))

/-- "A run is *fair* if SEQ, whenever `busy = 1`, eventually steps, and ENG, if its shift stays enabled,
eventually shifts" (R286). -/
def Fair (r : Nat → State) (m : Nat → Move) : Prop :=
  (∀ n, (r n).seq.busy = true → ∃ k, n ≤ k ∧ m k = .seq) ∧
    ∀ n, (∀ k, n ≤ k → (r k).engEnabled = true) → ∃ k, n ≤ k ∧ m k = .eng

/-! ### The return stack (R23, R180) -/

/-- The places a procedure's callers resume at, for a row inside the procedure; no place for a row of a
top-level procedure, of IDLE or of DONE. -/
def Label.callers : Label → List Resume
  | .x1 | .x2 | .x3 | .x4 | .x5 | .x6 | .x7 =>
    [.label .we2, .label .rs2, .label .id2, .label .wr3, .label .er3]
  | .we1 | .we2 => [.label .t2, .label .wr2, .label .er2, .label .pp2]
  | .rs1 | .rs2 => [.label .t2, .label .ww2]
  | .id1 | .id2 => [.label .t2]
  | .dr1 | .dr2 => [.label .pp9, .label .pp15]
  | .ww1 | .ww2 => [.label .er4, .ret]
  | .pp1 | .pp2 | .pp3 | .pp4 | .pp5 | .pp6 | .pp7 | .pp8 | .pp9 | .pp10 | .pp11 | .pp12 | .pp13
  | .pp14 | .pp15 => [.label .wt3]
  | _ => []

/-- The row a record resumes at; only PP15's call resumes by returning. -/
def Resume.site : Resume → Label
  | .label l => l
  | .ret => .pp15

/-- The records are those of the chain of calls that leads to the row `l`. -/
def stackFits : List Record → Label → Bool
  | [], l => l.callers.isEmpty
  | r :: rs, l => l.callers.contains r.resume && stackFits rs r.resume.site

/-- The stack fits the row, and T1 is reached only by the four commands it names (Table 42-2). -/
def State.StackInvariant (s : State) : Prop :=
  stackFits s.seq.stk s.seq.ust = true ∧
    (s.seq.ust = .t1 → 4 ≤ s.seq.op.toNat ∧ s.seq.op.toNat ≤ 7)

/-! ### The FIFO plan (R224, R259) -/

/-- Both FIFOs are empty. -/
def Ctl.Empty (c : Ctl) : Prop := c.txq.length = 0 ∧ c.rxq.length = 0

/-- `m` entries are in the two FIFOs together, and RXNE means "at least one". -/
def Ctl.Holds (c : Ctl) (m : Nat) : Prop := c.txq.length + c.rxq.length = m ∧ c.rxThres = 1

/-- What a RX_DRAIN of the page program finds: called from PP8 at least 48 transmit entries are free and
the burst counter stands at 16, called from PP14 TXQ is empty (R224). -/
def Ctl.DrainPlan (c : Ctl) (p : Params) : List Record → Prop
  | r :: _ =>
    c.rxThres = 1 ∧
      (r.resume = .label .pp9 → c.txq.length + 48 ≤ p.txDepth ∧
        ∃ a b, r.saved = .page a b (BitVec.ofNat 7 Config.burst1)) ∧
      (r.resume = .label .pp15 → c.txq.length = 0)
  | [] => False

/-- The chunk is 32 above 63 words outstanding and the exact remainder below (R253, R254, R256). -/
def Seq.ChunkPlan (q : Seq) : Prop :=
  (0 < q.rxRem.toNat → q.rxRem.toNat ≤ 63 → q.chunk.toNat = q.rxRem.toNat) ∧
    (63 < q.rxRem.toNat → q.chunk.toNat = 32)

/-- In the pump loop (R255): RX_THRES is the current chunk, and while filler remains TX_THRES means "32
entries free". -/
def State.PumpPlan (s : State) : Prop :=
  s.ctl.rxThres = s.seq.chunk.toNat ∧ s.seq.ChunkPlan ∧
    (s.seq.txRem ≠ 0 → s.ctl.txThres + 31 = s.par.txDepth)

/-- The words in flight or still to be pushed (R253). -/
def State.Outstanding (s : State) : Nat :=
  s.ctl.txq.length + s.ctl.rxq.length + s.seq.txRem.toNat

/-- What the FIFOs hold at each row of the step tables (R42, R190, R224, R259), for every schedule. -/
def State.RowPlan (s : State) : Prop :=
  let T := s.ctl.txq.length
  let R := s.ctl.rxq.length
  let q := s.seq
  match q.ust with
  | .idle => q.shadow = none ∨ s.ctl.Empty
  | .in1 | .in2 => True
  | .in3 => s.plat.locked = false
  | .x2 | .x3 | .we2 | .rs2 | .id2 | .pp2 | .pp3 | .rd2 | .rd3 | .rd7 => s.ctl.Holds 0
  | .x4 | .x5 | .rd4 | .rd5 | .rd8 | .rd9 => s.ctl.Holds 1
  | .x6 | .x7 | .rd6 | .rd10 => T = 0 ∧ s.ctl.Holds 1
  | .pp4 => s.ctl.Holds (1 + q.k.toNat) ∧ q.k.toNat < 16
  | .pp5 => s.ctl.Holds 17 ∧ q.k.toNat = 16
  | .pp6 | .pp7 => s.ctl.Holds 17 ∧ q.k.toNat = 16 ∧ s.ctl.txThres + 47 = s.par.txDepth
  | .pp8 => s.ctl.rxThres = 1 ∧ q.k.toNat = 16 ∧ T + 48 ≤ s.par.txDepth
  | .dr1 => s.ctl.DrainPlan s.par q.stk
  | .dr2 => s.ctl.DrainPlan s.par q.stk ∧ 1 ≤ R
  | .pp9 => s.ctl.rxThres = 1 ∧ 16 ≤ q.k.toNat ∧ q.k.toNat < 64 ∧ T + (64 - q.k.toNat) ≤ s.par.txDepth
  | .pp10 | .pp11 => s.ctl.rxThres = 1
  | .pp12 => s.ctl.rxThres = 1 ∧ s.ctl.txThres = 1
  | .pp13 | .pp14 => s.ctl.rxThres = 1 ∧ T = 0
  | .rd12 =>
    T + R = q.k.toNat ∧ q.k.toNat < q.n.toNat ∧ q.rxRem = q.count ∧
      q.n.toNat = min 63 q.rxRem.toNat ∧ q.n.toNat + q.txRem.toNat = q.rxRem.toNat ∧ q.ChunkPlan
  | .rd13 =>
    s.Outstanding ≤ q.rxRem.toNat ∧ 0 < q.rxRem.toNat ∧ q.rxRem = q.count ∧ (q.rxRem.toNat ≤ 63 → q.txRem = 0) ∧
      q.ChunkPlan
  | .rd14 => s.Outstanding ≤ q.rxRem.toNat ∧ s.ctl.rxThres = q.chunk.toNat ∧ q.ChunkPlan
  | .rd15 | .l1 => s.Outstanding ≤ q.rxRem.toNat ∧ s.PumpPlan
  | .l2 => s.Outstanding ≤ q.rxRem.toNat ∧ s.PumpPlan ∧ q.txRem ≠ 0
  | .l3 =>
    q.k.toNat < q.n.toNat ∧ q.n.toNat ≤ q.txRem.toNat ∧
      s.Outstanding ≤ q.rxRem.toNat + q.k.toNat ∧ T + (q.n.toNat - q.k.toNat) ≤ s.par.txDepth ∧
      s.PumpPlan
  | .l4 => s.Outstanding ≤ q.rxRem.toNat ∧ s.PumpPlan ∧ q.rxRem ≠ 0
  | .l5 =>
    q.k.toNat < q.chunk.toNat ∧ q.chunk.toNat ≤ R + q.k.toNat ∧
      s.Outstanding + q.k.toNat ≤ q.rxRem.toNat ∧ s.PumpPlan
  | .l6 =>
    s.Outstanding ≤ q.rxRem.toNat ∧ 0 < q.rxRem.toNat ∧ q.rxRem.toNat ≤ 63 ∧
      (q.txRem ≠ 0 → s.ctl.txThres + 31 = s.par.txDepth)
  | _ => s.ctl.Empty

/-- The rows of READ behind its test of `count` up to the pump setup. -/
def Label.readPhases : Label → Bool
  | .rd1 | .rd2 | .rd3 | .rd4 | .rd5 | .rd6 | .rd7 | .rd8 | .rd9 | .rd10 | .rd11 => true
  | _ => false

/-- The FIFO plan: the row's account, and a READ that has left RD0 has words to read (R251). -/
def State.FifoPlan (s : State) : Prop :=
  s.RowPlan ∧ (s.seq.ust.readPhases = true → s.seq.count ≠ 0)

/-! ### The frame plan (R42, R345) -/

/-- The row is reached with chip-select asserted: between a CS_ON and its CS_OFF. A RX_DRAIN is in the
frame exactly when PP8 called it (Tables 41-1, 42-1, 43-2, 45-1). -/
def Label.inFrame (stk : List Record) : Label → Bool
  | .x3 | .x4 | .x5 | .x6 => true
  | .pp3 | .pp4 | .pp5 | .pp6 | .pp7 | .pp8 | .pp9 | .pp10 | .pp11 | .pp12 | .pp13 => true
  | .rd3 | .rd4 | .rd5 | .rd6 | .rd7 | .rd8 | .rd9 | .rd10 | .rd11 | .rd12 | .rd13 | .rd14 | .rd15
  | .rd16 | .l1 | .l2 | .l3 | .l4 | .l5 | .l6 => true
  | .dr1 | .dr2 => (stk.head?.map Record.resume) == some (.label .pp9)
  | _ => false

/-- The level of chip-select inside and outside a frame. -/
def frameLevel : Bool → CsLevel
  | true => .asserted
  | false => .deasserted

/-- Chip-select is asserted exactly in a frame, nothing runs outside one, and ENG is enabled; INIT
establishes it (R42, R156). Under EMPTY_POLICY = `stop` nothing runs with TXQ empty (R281). -/
def State.FramePlan (s : State) : Prop :=
  (s.par.emptyPolicy = .stop → s.ctl.txq.length = 0 → s.ctl.running = false) ∧
    match s.seq.ust with
    | .in1 | .in2 | .in3 => True
    | .in4 | .in5 | .in6 | .in7 | .in8 | .in9 | .in10 => s.ctl.running = false
    | .in11 => s.ctl.running = false ∧ s.ctl.config.cslvl = .deasserted
    | .idle =>
      s.seq.shadow = none ∨
        (s.ctl.en = true ∧ s.ctl.running = false ∧ s.ctl.config.cslvl = .deasserted)
    | l =>
      s.ctl.en = true ∧ s.ctl.config.cslvl = frameLevel (l.inFrame s.seq.stk) ∧
        (l.inFrame s.seq.stk = false → s.ctl.running = false)

/-! ### The command plan (R22, R113) -/

/-- The rows of IDLE, INIT and DONE, which need no initialised controller. -/
def Label.uninitialised : Label → Bool
  | .idle | .done | .in1 | .in2 | .in3 | .in4 | .in5 | .in6 | .in7 | .in8 | .in9 | .in10 | .in11 =>
    true
  | _ => false

/-- The rows of READ behind its test of `count`, and WRITE's row behind a page. -/
def Label.usesBuffer : Label → Bool
  | .rd1 | .rd2 | .rd3 | .rd4 | .rd5 | .rd6 | .rd7 | .rd8 | .rd9 | .rd10 | .rd11 | .rd12 | .rd13
  | .rd14 | .rd15 | .rd16 | .rd17 | .l1 | .l2 | .l3 | .l4 | .l5 | .l6 | .wt3 => true
  | _ => false

/-- What acceptance has checked (R113) still holds: a command other than INIT has a `shadow` in manual
mode, and a READ or WRITE that moves words has an aligned `ptr`. -/
def State.CommandPlan (s : State) : Prop :=
  let q := s.seq
  (∀ c, q.shadow = some c → q.manual = true → c.mstren = true) ∧
    (q.ust.uninitialised = false → q.shadow ≠ none ∧ q.manual = true) ∧
      (q.ust = .rd0 ∨ q.ust = .wt1 → q.count ≠ 0 → aligned q.ptr = true) ∧
        (q.ust = .wt2 → q.chunks ≠ 0 → aligned q.ptr = true) ∧
          (q.ust.usesBuffer = true ∨ (∃ r ∈ q.stk, r.resume = .label .wt3) → aligned q.ptr = true)

/-- Everything above together: what holds of every run with both depths at least 63. -/
def State.RunInvariant (s : State) : Prop :=
  s.StackInvariant ∧ s.ShadowInvariant ∧ s.FifoPlan ∧ s.FramePlan ∧ s.CommandPlan ∧
    s.par.DepthsSuffice

/-! ### Terms of claims -/

/-- The instruction writes a transmit port (R116, R175). -/
def Instr.pushes : Instr → Bool
  | .push _ _ | .op1 _ | .op2 _ | .opr3 _ _ | .adr3 _ | .adr4 _ | .opa4 _ _ | .opz4 _ | .dat4 _
  | .fil4 => true
  | .init _ | .read _ | .write _ | .erase _ | .readId _ | .readSr _ | .readSr2 _ | .wren _ | .wrr _
  | .reserved9 _ | .reserved10 _ | .reserved11 _ | .reserved12 _ | .reserved13 _ | .reserved14 _
  | .reserved15 _ | .xfer _ _ | .waitWip | .programPage _ _ | .rxDrain | .csOn | .csOff | .start
  | .setRxth _ | .setTxth _ | .pop _ | .poll _ | .wireRdid | .wireRdsr | .wireRdsr2 | .wireWren
  | .wireWrr | .wireRead | .wirePp | .wireSe | .wireBe | .wireCe => false

/-- The instruction is a command or a reserved operation number (R111, R113). -/
def Instr.isCommand : Instr → Bool
  | .init _ | .read _ | .write _ | .erase _ | .readId _ | .readSr _ | .readSr2 _ | .wren _ | .wrr _
  | .reserved9 _ | .reserved10 _ | .reserved11 _ | .reserved12 _ | .reserved13 _ | .reserved14 _
  | .reserved15 _ => true
  | _ => false

/-- The instruction is a primitive or a transmit entry: one access of SEQ (R10). -/
def Instr.isAccess : Instr → Bool
  | .csOn | .csOff | .start | .setRxth _ | .setTxth _ | .push _ _ | .pop _ | .poll _ | .op1 _ | .op2 _
  | .opr3 _ _ | .adr3 _ | .adr4 _ | .opa4 _ _ | .opz4 _ | .dat4 _ | .fil4 => true
  | _ => false

/-- The instruction is a wire opcode (R122). -/
def Instr.isOpcode : Instr → Bool
  | .wireRdid | .wireRdsr | .wireRdsr2 | .wireWren | .wireWrr | .wireRead | .wirePp | .wireSe | .wireBe
  | .wireCe => true
  | _ => false

/-- The row at `ust` is done and SEQ goes on as its table says. -/
def State.nextRow (s : State) : State := s.setSeq s.seq.afterRow

/-- The entry `(w, v)` is appended to TXQ and the write is recorded (Table 20-1); the row is done. -/
def State.pushed (s : State) (w : Width) (v : Word) : State :=
  State.nextRow { s with
    ctl := { s.ctl with txq := s.ctl.txq ++ [{ width := w, value := v }] }
    regTrace := s.regTrace ++ [.wTxd w v] }

/-- The command registers are latched and SEQ goes to `first` (R114). -/
def State.accepted (s : State) (op : BitVec 4) (first : Label) (d : Desc) : State :=
  { s with
    seq := { s.seq with
      op := op, fop := d.fop, arg := d.arg, addr := d.addr, ptr := d.ptr, count := d.count
      busy := true, stk := [], ust := first } }

end Sys2Proof.Machine
end

