-- ==== Sys2Proof/WellFormed.lean ====
section
/-! DEFINITION. Well-formed instructions: the operand ranges the spec states that the types do not
already enforce. -/

namespace Sys2Proof

/-- SET_RXTH(n) has `1 <= n <= RX_DEPTH` (R173) and SET_TXTH(n) has `1 <= n <= TX_DEPTH` (R174).
Every other operand is legal at every value of its type: a command's unused fields may hold anything
(R112), and PUSH's widths and POLL's flags are closed types (R175, R177). -/
def Instr.wellFormed (p : Params) : Instr → Bool
  | .setRxth n => decide (1 ≤ n ∧ n ≤ p.rxDepth)
  | .setTxth n => decide (1 ≤ n ∧ n ≤ p.txDepth)
  | .init _ | .read _ | .write _ | .erase _ | .readId _ | .readSr _ | .readSr2 _ | .wren _ | .wrr _
  | .reserved9 _ | .reserved10 _ | .reserved11 _ | .reserved12 _ | .reserved13 _ | .reserved14 _
  | .reserved15 _ | .xfer _ _ | .waitWip | .programPage _ _ | .rxDrain | .csOn | .csOff | .start
  | .push _ _ | .pop _ | .poll _ | .op1 _ | .op2 _ | .opr3 _ _ | .adr3 _ | .adr4 _ | .opa4 _ _
  | .opz4 _ | .dat4 _ | .fil4 | .wireRdid | .wireRdsr | .wireRdsr2 | .wireWren | .wireWrr
  | .wireRead | .wirePp | .wireSe | .wireBe | .wireCe => true

end Sys2Proof
end

