-- ==== Sys2Proof/Certificates/Slice0/Obligations.lean ====
section
/-! DEFINITION. The statements for the provers, one definition each; their list with the rules they rest
on is OBLIGATIONS.json. -/

open Sys2Proof Sys2Proof.Machine

/-! ### Encoding (30_encoding.md) -/

/-- Decoding an instruction's code gives the instruction back, every operand at every value, for every
instruction with a code that says which instruction it is: all but the transmit entries, which carry no
format (R75). -/
def Obligations.DecodeOfEncodeIsTheInstruction : Prop :=
  ∀ (p : Params) (i : Instr) (c : Code), p.OpcodesDistinct → encode p i = some c →
    (∀ w v, c ≠ .entry w v) → decode p c = .ok i

/-- A descriptor that decodes is the encoding of what it decodes to: no bit of the four words is dropped
(R110, R112). -/
def Obligations.EncodeOfDecodeIsTheDescriptor : Prop :=
  ∀ (p : Params) (d0 d1 d2 d3 : Word) (i : Instr),
    decode p (.descriptor d0 d1 d2 d3) = .ok i → encode p i = some (.descriptor d0 d1 d2 d3)

/-- Words written out from Tables 30-1, 30-2 and 30-5 decode to what they stand for: `init(true)`,
`read(0x000100, 0x1000, 3)`, `erase(0x012345, 0xD8)`, `wrr(0x0280)`, `wren()` with every ignored field
set, and the opcode bytes `9F` and `D8`. The two bytes are default parameter values, general knowledge
the model takes over (PRESUMED, log 4); the descriptor words are V30-3's. -/
def Obligations.WrittenOutWordsDecode : Prop :=
  decode Config.defaults (.descriptor 0x00010000 0 0 0) =
      .ok (.init { fop := 0, arg := 1, addr := 0, ptr := 0, count := 0 }) ∧
    decode Config.defaults (.descriptor 0x00000001 0x00000100 0x00001000 0x00000003) =
      .ok (.read { fop := 0, arg := 0, addr := 0x100, ptr := 0x1000, count := 3 }) ∧
    decode Config.defaults (.descriptor 0x0000D803 0x00012345 0 0) =
      .ok (.erase { fop := 0xD8, arg := 0, addr := 0x12345, ptr := 0, count := 0 }) ∧
    decode Config.defaults (.descriptor 0x02800008 0 0 0) =
      .ok (.wrr { fop := 0, arg := 0x280, addr := 0, ptr := 0, count := 0 }) ∧
    decode Config.defaults (.descriptor 0xFFFFFF07 1 2 3) =
      .ok (.wren { fop := 0xFF, arg := 0xFFFF, addr := 1, ptr := 2, count := 3 }) ∧
    decode Config.defaults (.opcode 0x9F) = .ok .wireRdid ∧
    decode Config.defaults (.opcode 0xD8) = .ok .wireBe

/-- `rev24(a)` is `a[7:0] || a[15:8] || a[23:16]` (R117) and `opa(o, a)` has `o` in its low byte and
`rev24(a)` above it (R119); bits 31:24 of `a` do not enter. With the spec's two examples and the bytes they send. -/
def Obligations.AddressesAreByteReversed : Prop :=
  (∀ a : Word,
      (rev24 a).extractLsb' 0 8 = a.extractLsb' 16 8 ∧
      (rev24 a).extractLsb' 8 8 = a.extractLsb' 8 8 ∧
      (rev24 a).extractLsb' 16 8 = a.extractLsb' 0 8 ∧
      ∀ b : Word, a.extractLsb' 0 24 = b.extractLsb' 0 24 → rev24 a = rev24 b) ∧
  (∀ (o : Byte) (a : Word),
      (opa o a).extractLsb' 0 8 = o ∧
      (opa o a).extractLsb' 8 8 = a.extractLsb' 16 8 ∧
      (opa o a).extractLsb' 16 8 = a.extractLsb' 8 8 ∧
      (opa o a).extractLsb' 24 8 = a.extractLsb' 0 8) ∧
  rev24 0x00ABCDEF = 0xEFCDAB ∧ sentBytes .w3 (adr3Word 0x00ABCDEF) = [0xAB, 0xCD, 0xEF] ∧
  opa 0xD8 0x012345 = 0x452301D8 ∧ sentBytes .w4 (opa 0xD8 0x012345) = [0xD8, 0x01, 0x23, 0x45]

/-- The receive word of `n` received bytes is the sum of `r_k * 2^(8*(4-n+k))` (R76). -/
def Obligations.ReceivedBytesFillTheWordFromTheTop : Prop :=
  ∀ rs : List Byte, rs.length ≤ 4 →
    (rxWord rs).toNat =
      ((List.range rs.length).map fun k =>
        (rs.getD k 0).toNat * 2 ^ (8 * (4 - rs.length + k))).sum

/-- `hi8` is the last byte received for an entry of any width; for a 2-byte entry the word is
`status || echo || 0x0000`; `id24` of a 4-byte entry is `id_3 || id_2 || id_1` (R121). -/
def Obligations.ResponsesAreExtracted : Prop :=
  (∀ w : Word, hi8 w = w.extractLsb' 24 8 ∧ id24 w = w.extractLsb' 8 24) ∧
  (∀ (rs : List Byte) (last : Byte), rs.length ≤ 3 → hi8 (rxWord (rs ++ [last])) = last) ∧
  (∀ echo status : Byte, rxWord [echo, status] = status ++ echo ++ (0 : BitVec 16)) ∧
  (∀ r : Byte, hi8 (rxWord [r]) = r) ∧
  (∀ echo id1 id2 id3 : Byte, id24 (rxWord [echo, id1, id2, id3]) = id3 ++ id2 ++ id1)

/-- `chunks = ceil(count / 64)`, exactly, at most 2^26; `pa_i = (addr + 256*i) mod 2^32`, of which only
bits 23:0 reach the wire; `pb_i = 64*i` (R120). -/
def Obligations.PagesAreCountedExactly : Prop :=
  (∀ count : Word,
      (chunksOf count).toNat = count.toNat / 64 + (if count.toNat % 64 = 0 then 0 else 1) ∧
      count.toNat ≤ 64 * (chunksOf count).toNat ∧ 64 * (chunksOf count).toNat < count.toNat + 64 ∧
      (chunksOf count).toNat ≤ 2 ^ 26) ∧
  (∀ addr i : Word, (pageAddr addr i).toNat = (addr.toNat + 256 * i.toNat) % 2 ^ 32) ∧
  (∀ (o : Byte) (a b : Word), a.extractLsb' 0 24 = b.extractLsb' 0 24 → opa o a = opa o b) ∧
  ∀ i : Word, i.toNat < 2 ^ 26 → (pageBase i).toNat = 64 * i.toNat

/-! ### State and reset (10_state.md, 70_reset_and_hazards.md) -/

/-- Power-on state of SEQ, fault flags and traces (R330). -/
def Obligations.PowerOnStateOfSeq : Prop :=
  State.reset.seq.ust = .idle ∧ State.reset.seq.stk = [] ∧ State.reset.seq.busy = false ∧
    State.reset.seq.result = 0 ∧ State.reset.seq.shadow = none ∧
    State.reset.flags = { txOverflow := false, rxUnderflow := false, rxOverrun := false } ∧
    State.reset.regTrace = [] ∧ State.reset.wire = []

/-- The invariants below hold in the reset state. The controller's part rests on the model's own
power-on values, DESIGN CHOICE, log 7. -/
def Obligations.ResetMeetsTheInvariants : Prop :=
  State.reset.hmem.wf = true ∧ State.reset.FifosBounded ∧ State.reset.RunInvariant

/-- The three flags are pure functions of the FIFOs and thresholds, and reading STATUS changes nothing
(R31). -/
def Obligations.StatusFlagsCompareLevels : Prop :=
  ∀ s : State,
    (s.ctl.rxne = true ↔ s.ctl.rxThres ≤ s.ctl.rxq.length) ∧
    (s.ctl.txnf = true ↔ s.ctl.txq.length < s.ctl.txThres) ∧
    (s.ctl.txfull s.par = true ↔ s.ctl.txq.length = s.par.txDepth) ∧
    ctlReadStatus s =
      { s with regTrace := s.regTrace ++ [Access.rStatus s.ctl.rxne s.ctl.txnf (s.ctl.txfull s.par)] }

/-! ### Commands: acceptance and refusal (R113, R114) -/

/-- HOST hands over a descriptor: refused for the first cause of Table 60-1 that applies, else the accept
step, which latches the command registers and goes to the first step of Table 30-2 (R113, R114). -/
def Obligations.HostCommandIsRefusedOrAccepted : Prop :=
  ∀ (d0 d1 d2 d3 : Word) (s : State),
    let op := d0.extractLsb' 0 4
    hostCommand d0 d1 d2 d3 s =
      if d0.extractLsb' 4 4 ≠ 0 ∨ 9 ≤ op.toNat then .refused .reservedOp
      else if s.seq.busy = true ∨ s.seq.ust ≠ .idle then .refused .busy
      else if op ≠ 0 ∧ s.seq.shadow = none then .refused .notInitialised
      else if op ≠ 0 ∧ s.seq.manual = false then .refused .autoMode
      else if (op = 1 ∨ op = 2) ∧ d3 ≠ 0 ∧ d2.extractLsb' 0 2 ≠ 0 then .refused .misalignedPtr
      else .next { s with
        seq := { s.seq with
          op := op, fop := d0.extractLsb' 8 8, arg := d0.extractLsb' 16 16
          addr := d1, ptr := d2, count := d3, busy := true, stk := []
          ust := [Label.in1, .rd0, .wt1, .er1, .t1, .t1, .t1, .t1, .wr1].getD op.toNat .idle } }

/-- INIT is accepted whenever SEQ is idle, initialised or not (R114, R155). -/
def Obligations.InitIsAcceptedWhenIdle : Prop :=
  ∀ (d : Desc) (s : State), s.seq.ust = .idle → s.seq.busy = false →
    exec (.init d) s = .next (s.accepted 0 .in1 d)

/-- The eight other commands are accepted when SEQ is idle after `init(true)`; READ and WRITE need an
aligned PTR unless COUNT is 0 (R113, R114, Table 30-2). -/
def Obligations.TransferCommandsAreAccepted : Prop :=
  ∀ (d : Desc) (s : State), s.seq.ust = .idle → s.seq.busy = false → s.seq.shadow ≠ none →
    s.seq.manual = true →
    ((d.count ≠ 0 → aligned d.ptr = true) →
      exec (.read d) s = .next (s.accepted 1 .rd0 d) ∧
      exec (.write d) s = .next (s.accepted 2 .wt1 d)) ∧
    exec (.erase d) s = .next (s.accepted 3 .er1 d) ∧
    exec (.readId d) s = .next (s.accepted 4 .t1 d) ∧
    exec (.readSr d) s = .next (s.accepted 5 .t1 d) ∧
    exec (.readSr2 d) s = .next (s.accepted 6 .t1 d) ∧
    exec (.wren d) s = .next (s.accepted 7 .t1 d) ∧
    exec (.wrr d) s = .next (s.accepted 8 .wr1 d)

/-- A command offered while one runs is `refuse busy`; before the first INIT it is `refuse
not_initialised`; after `init(false)` it is `refuse auto_mode`; a READ or WRITE of words at an unaligned
PTR is `refuse misaligned_ptr` (R113, R154). -/
def Obligations.CommandsAreRefusedUnlessReady : Prop :=
  (∀ c ∈ [Instr.init, .read, .write, .erase, .readId, .readSr, .readSr2, .wren, .wrr],
    ∀ (d : Desc) (s : State), s.seq.busy = true ∨ s.seq.ust ≠ .idle →
      exec (c d) s = .refused .busy) ∧
  ∀ (d : Desc) (s : State), s.seq.ust = .idle → s.seq.busy = false →
    (∀ c ∈ [Instr.read, .write, .erase, .readId, .readSr, .readSr2, .wren, .wrr],
      (s.seq.shadow = none → exec (c d) s = .refused .notInitialised) ∧
      (s.seq.shadow ≠ none → s.seq.manual = false → exec (c d) s = .refused .autoMode)) ∧
    ∀ c ∈ [Instr.read, .write],
      s.seq.shadow ≠ none → s.seq.manual = true → d.count ≠ 0 → aligned d.ptr = false →
        exec (c d) s = .refused .misalignedPtr

/-- OP 9 to 15 is `refuse reserved_op`, whatever the state (R113). -/
def Obligations.ReservedOperationsAreRefused : Prop :=
  ∀ c ∈ [Instr.reserved9, .reserved10, .reserved11, .reserved12, .reserved13, .reserved14,
      .reserved15],
    ∀ (d : Desc) (s : State), exec (c d) s = .refused .reservedOp

/-! ### Primitives (41_primitives.md). The row X7, whose successor is a return, is POP's alone; every
other row goes on to `nextRow`. -/

/-- CS_ON: `shadow.CSLVL <- asserted`, then every field of `shadow` to CONFIG with MSTRT = 0; `CS1` if
the level was deasserted (R170). -/
def Obligations.CsOnAssertsChipSelect : Prop :=
  ∀ (c : CtlConfig) (s : State), s.seq.shadow = some c → s.seq.ust ≠ .x7 →
    exec .csOn s = .next (State.nextRow { s with
      seq := { s.seq with shadow := some { c with cslvl := .asserted } }
      ctl := { s.ctl with config := { c with cslvl := .asserted } }
      wire := s.wire ++ (if s.ctl.config.cslvl = .deasserted then [.cs1] else [])
      regTrace := s.regTrace ++ [.wConfig { c with cslvl := .asserted } false] })

/-- CS_OFF: `shadow.CSLVL <- deasserted`, then CONFIG; `CS0` if the level was asserted, and then under
EMPTY_POLICY = `continue` also `running <- 0`; both FIFOs stay (R171). -/
def Obligations.CsOffDeassertsChipSelect : Prop :=
  ∀ (c : CtlConfig) (s : State), s.seq.shadow = some c → s.seq.ust ≠ .x7 →
    exec .csOff s = .next (State.nextRow { s with
      seq := { s.seq with shadow := some { c with cslvl := .deasserted } }
      ctl := { s.ctl with
        config := { c with cslvl := .deasserted }
        running :=
          if s.par.emptyPolicy = .continue ∧ s.ctl.config.cslvl = .asserted then false
          else s.ctl.running }
      wire := s.wire ++ (if s.ctl.config.cslvl = .asserted then [.cs0] else [])
      regTrace := s.regTrace ++ [.wConfig { c with cslvl := .deasserted } false] })

/-- START in a state that meets the shadow invariant (R41, `StepKeepsShadowInvariant`): CONFIG keeps its
stored fields, `shadow` is unchanged, and `running <- 1`, except under `stop` with TXQ empty, where the
start is lost (R172, R281). MSTREN = 1: the spec models no other transfer (R154). -/
def Obligations.StartStartsTheEngine : Prop :=
  ∀ (c : CtlConfig) (s : State), s.seq.shadow = some c → s.ctl.config = c → c.mstren = true →
    s.seq.ust ≠ .x7 →
    exec .start s = .next (State.nextRow { s with
      ctl := { s.ctl with
        running := if s.par.emptyPolicy = .stop ∧ s.ctl.txq = [] then s.ctl.running else true }
      regTrace := s.regTrace ++ [.wConfig c true] })

/-- The three primitives that read `shadow` are refused while it holds no value (R22, R113); START with
MSTREN = 0 is refused, the model's choice (DESIGN CHOICE, log 15). -/
def Obligations.ConfigPrimitivesNeedAShadow : Prop :=
  (∀ i ∈ [Instr.csOn, .csOff, .start], ∀ s : State, s.seq.shadow = none →
    exec i s = .refused .notInitialised) ∧
  ∀ (c : CtlConfig) (s : State), s.seq.shadow = some c → c.mstren = false →
    exec .start s = .refused .autoMode

/-- SET_RXTH and SET_TXTH store a legal threshold (R173, R174); a threshold of 0 or above the depth is
`refuse bad_threshold` (R32, Table 60-1). -/
def Obligations.LegalThresholdsAreStored : Prop :=
  (∀ (n : Nat) (s : State),
    (n = 0 ∨ s.par.rxDepth < n → exec (.setRxth n) s = .refused .badThreshold) ∧
    (n = 0 ∨ s.par.txDepth < n → exec (.setTxth n) s = .refused .badThreshold)) ∧
  ∀ (n : Nat) (s : State), 1 ≤ n → s.seq.ust ≠ .x7 →
    (n ≤ s.par.rxDepth →
      exec (.setRxth n) s = .next (State.nextRow { s with
        ctl := { s.ctl with rxThres := n }, regTrace := s.regTrace ++ [.wRxThres n] })) ∧
    (n ≤ s.par.txDepth →
      exec (.setTxth n) s = .next (State.nextRow { s with
        ctl := { s.ctl with txThres := n }, regTrace := s.regTrace ++ [.wTxThres n] }))

/-- PUSH(w, v) appends `(w, v[8w-1:0])` to TXQ and records `v`; with TXQ full a PUSH, and an entry of any
format, sets `tx_overflow`, and TXQ, the rest of the controller and HMEM stay; DAT4 is the PUSH of the
buffer word it reads in the same step (R175, Table 20-1). -/
def Obligations.PushAppendsAnEntry : Prop :=
  (∀ (w : Width) (v : Word) (s : State), s.seq.ust ≠ .x7 → s.ctl.txq.length < s.par.txDepth →
    exec (.push w v) s = .next (State.nextRow { s with
      ctl := { s.ctl with
        txq := s.ctl.txq ++ [{ width := w, value := BitVec.ofNat 32 (v.toNat % 2 ^ (8 * w.bytes)) }] }
      regTrace := s.regTrace ++ [.wTxd w v] })) ∧
  (∀ (i : Word) (s : State), aligned (s.seq.ptr + 4 * i) = true →
    exec (.dat4 i) s = exec (.push .w4 (s.hmem.readWord (s.seq.ptr + 4 * i))) s) ∧
  ∀ (w : Width) (v : Word) (o : Byte) (arg : BitVec 16) (a : Word),
    ∀ i ∈ [Instr.push w v, .op1 o, .op2 o, .opr3 o arg, .adr3 a, .adr4 a, .opa4 o a, .opz4 o, .fil4],
      ∀ s : State, s.seq.ust ≠ .x7 → s.par.txDepth ≤ s.ctl.txq.length →
        ∃ (port : Width) (value : Word), (i = .push w v → port = w ∧ value = v) ∧
          exec i s = .next (State.nextRow { s with
            flags := { s.flags with txOverflow := true }
            regTrace := s.regTrace ++ [.wTxd port value] })

/-- Each transmit-entry format is one entry of its port's width whose bytes go on the wire in the order
of Table 30-4 (R116, R117, R119). DAT4 needs its word's address to be a multiple of 4 (R71). -/
def Obligations.TransmitEntriesCarryTheirBytes : Prop :=
  ∀ (o : Byte) (arg : BitVec 16) (a i : Word) (s : State), s.seq.ust ≠ .x7 →
    s.ctl.txq.length < s.par.txDepth →
    (∃ v, truncateTo .w1 v = v ∧ sentBytes .w1 v = [o] ∧ exec (.op1 o) s = .next (s.pushed .w1 v)) ∧
    (∃ v, truncateTo .w2 v = v ∧ sentBytes .w2 v = [o, 0] ∧
      exec (.op2 o) s = .next (s.pushed .w2 v)) ∧
    (∃ v, truncateTo .w3 v = v ∧ sentBytes .w3 v = [o, arg.extractLsb' 0 8, arg.extractLsb' 8 8] ∧
      exec (.opr3 o arg) s = .next (s.pushed .w3 v)) ∧
    (∃ v, truncateTo .w3 v = v ∧
      sentBytes .w3 v = [a.extractLsb' 16 8, a.extractLsb' 8 8, a.extractLsb' 0 8] ∧
      exec (.adr3 a) s = .next (s.pushed .w3 v)) ∧
    (∃ v, sentBytes .w4 v = [a.extractLsb' 16 8, a.extractLsb' 8 8, a.extractLsb' 0 8, 0] ∧
      exec (.adr4 a) s = .next (s.pushed .w4 v)) ∧
    (∃ v, sentBytes .w4 v = [o, a.extractLsb' 16 8, a.extractLsb' 8 8, a.extractLsb' 0 8] ∧
      exec (.opa4 o a) s = .next (s.pushed .w4 v)) ∧
    (∃ v, sentBytes .w4 v = [o, 0, 0, 0] ∧ exec (.opz4 o) s = .next (s.pushed .w4 v)) ∧
    (aligned (s.seq.ptr + 4 * i) = true →
      exec (.dat4 i) s = .next (s.pushed .w4 (s.hmem.readWord (s.seq.ptr + 4 * i)))) ∧
    exec .fil4 s = .next (s.pushed .w4 s.par.filler)

/-- POP removes the head of RXQ and keeps it in `tmp`, throws it away, or stores it to `HBuf[i]` in the
same step (R176). -/
def Obligations.PopTakesTheHead : Prop :=
  ∀ (w : Word) (q : List Word) (s : State), s.ctl.rxq = w :: q → s.seq.ust ≠ .x7 →
    exec (.pop .tmp) s = .next (State.nextRow { s with
      seq := { s.seq with tmp := w }
      ctl := { s.ctl with rxq := q }, regTrace := s.regTrace ++ [.rRxd w] }) ∧
    exec (.pop .discard) s = .next (State.nextRow { s with
      ctl := { s.ctl with rxq := q }, regTrace := s.regTrace ++ [.rRxd w] }) ∧
    ∀ i : Word, aligned (s.seq.ptr + 4 * i) = true →
      exec (.pop (.hbuf i)) s = .next (State.nextRow { s with
        hmem := s.hmem.writeWord (s.seq.ptr + 4 * i) w
        ctl := { s.ctl with rxq := q }, regTrace := s.regTrace ++ [.rRxd w] })

/-- POP with RXQ empty sets `rx_underflow` and goes on with some word, any at all: the same word is
recorded and kept (R176, Table 20-1; the word is a free value, log 9). -/
def Obligations.PopFromAnEmptyQueueUnderflows : Prop :=
  ∀ s : State, s.ctl.rxq = [] → s.seq.ust ≠ .x7 → ∃ v : Word,
    exec (.pop .tmp) s = .next (State.nextRow { s with
      seq := { s.seq with tmp := v }, flags := { s.flags with rxUnderflow := true }
      draws := s.draws + 1, regTrace := s.regTrace ++ [.rRxd v] }) ∧
    exec (.pop .discard) s = .next (State.nextRow { s with
      flags := { s.flags with rxUnderflow := true }
      draws := s.draws + 1, regTrace := s.regTrace ++ [.rRxd v] }) ∧
    ∀ i : Word, aligned (s.seq.ptr + 4 * i) = true →
      exec (.pop (.hbuf i)) s = .next (State.nextRow { s with
        hmem := s.hmem.writeWord (s.seq.ptr + 4 * i) v, flags := { s.flags with rxUnderflow := true }
        draws := s.draws + 1, regTrace := s.regTrace ++ [.rRxd v] })

/-- `HBuf[i] <- POP` makes the word at `ptr + 4*i` the popped one and leaves every other byte of HMEM
alone (R71, R176). -/
def Obligations.PopStoresOneWord : Prop :=
  ∀ (i w : Word) (q : List Word) (s : State), s.hmem.wf = true → s.ctl.rxq = w :: q →
    s.seq.ust ≠ .x7 → aligned (s.seq.ptr + 4 * i) = true →
    ∃ t, exec (.pop (.hbuf i)) s = .next t ∧
      t.hmem.readWord (s.seq.ptr + 4 * i) = w ∧
      ∀ a : Nat, (∀ j < 4, a ≠ byteKey (s.seq.ptr + 4 * i) j) → t.hmem.readByte a = s.hmem.readByte a

/-- POLL reads STATUS once; with the flag 1 SEQ goes on, with the flag 0 it stays at the row (R177). -/
def Obligations.PollGoesOnOrStays : Prop :=
  ∀ (f : PollFlag) (s : State),
    let read := { s with
      regTrace := s.regTrace ++ [Access.rStatus s.ctl.rxne s.ctl.txnf (s.ctl.txfull s.par)] }
    (s.ctl.pollFlag f = true → s.seq.ust ≠ .x7 → exec (.poll f) s = .next (State.nextRow read)) ∧
    (s.ctl.pollFlag f = false → exec (.poll f) s = .next read) ∧
    s.ctl.pollFlag f =
      match f with
      | .rxne => s.ctl.rxne
      | .txnf => s.ctl.txnf

/-! ### Calls and returns (R180) -/

/-- A call pushes a record of the next row and the live registers, binds the arguments and goes to the
procedure's first row; it makes no access (R180, R190, R221, R240, R178). The record names the next row
of the calling table; PP15's resumes by returning (Tables 42-2 to 44-1). It saves `page_i` and `chunks`
for WRITE, `pa`, `pb` and `k` for each call of PROGRAM_PAGE, and nothing for the other callers, which is
the model's reading of "live working registers" (DEDUCED, log 16). -/
def Obligations.CallsPushARecord : Prop :=
  (∀ (w : Width) (v pa pb : Word) (s : State),
      exec (.xfer w v) s = .next { s with
        seq := { s.seq with stk := s.seq.returnRecord :: s.seq.stk, ust := .x1, xw := w, xv := v } } ∧
      exec .waitWip s = .next { s with
        seq := { s.seq with stk := s.seq.returnRecord :: s.seq.stk, ust := .ww1 } } ∧
      exec (.programPage pa pb) s = .next { s with
        seq := { s.seq with stk := s.seq.returnRecord :: s.seq.stk, ust := .pp1, pa := pa, pb := pb } } ∧
      exec .rxDrain s = .next { s with
        seq := { s.seq with stk := s.seq.returnRecord :: s.seq.stk, ust := .dr1 } }) ∧
  (∀ r ∈ [(Label.we1, Label.we2), (.rs1, .rs2), (.id1, .id2), (.t1, .t2), (.wr1, .wr2), (.wr2, .wr3),
      (.er1, .er2), (.er2, .er3), (.er3, .er4), (.wt2, .wt3), (.pp1, .pp2), (.pp8, .pp9),
      (.pp14, .pp15), (.ww1, .ww2)],
    ∀ q : Seq, q.ust = r.1 → q.returnRecord.resume = .label r.2) ∧
  (∀ q : Seq, q.ust = .pp15 → q.returnRecord.resume = .ret) ∧
  (∀ q : Seq, q.ust = .wt2 → q.returnRecord.saved = .write q.pageI q.chunks) ∧
  (∀ l ∈ [Label.pp1, .pp8, .pp14, .pp15], ∀ q : Seq, q.ust = l →
    q.returnRecord.saved = .page q.pa q.pb q.k) ∧
  ∀ l ∈ [Label.we1, .rs1, .id1, .t1, .wr1, .wr2, .er1, .er2, .er3, .ww1], ∀ q : Seq, q.ust = l →
    q.returnRecord.saved = .none

/-- `return` pops the record, resumes at its label and brings the saved registers back; WAIT_WIP takes
its status snapshot on return; a record that resumes by returning pops the next one too (R180, R240;
log 16). Row X7 pops into `tmp` and returns (Table 42-1). -/
def Obligations.ReturnsResumeTheCaller : Prop :=
  (∀ (w : Word) (q : List Word) (l : Label) (rs : List Record) (s : State),
    s.seq.ust = .x7 → s.ctl.rxq = w :: q →
    s.seq.stk = { resume := .label l, saved := .none } :: rs → l ≠ .ww2 →
    exec (.pop .tmp) s = .next { s with
      seq := { s.seq with tmp := w, ust := l, stk := rs }
      ctl := { s.ctl with rxq := q }, regTrace := s.regTrace ++ [.rRxd w] }) ∧
  ∀ (l : Label) (rs : List Record) (s : State),
    (l ≠ .ww2 →
      (s.seq.stk = ⟨.label l, .none⟩ :: rs →
        s.doReturn = .next (s.setSeq { s.seq with ust := l, stk := rs })) ∧
      (∀ i c, s.seq.stk = ⟨.label l, .write i c⟩ :: rs →
        s.doReturn = .next (s.setSeq { s.seq with ust := l, stk := rs, pageI := i, chunks := c })) ∧
      (∀ a b k, s.seq.stk = ⟨.label l, .page a b k⟩ :: rs →
        s.doReturn = .next (s.setSeq { s.seq with ust := l, stk := rs, pa := a, pb := b, k := k })) ∧
      (∀ a b k i c, s.seq.stk = ⟨.ret, .page a b k⟩ :: ⟨.label l, .write i c⟩ :: rs →
        s.doReturn = .next (s.setSeq { s.seq with
          ust := l, stk := rs, pa := a, pb := b, k := k, pageI := i, chunks := c }))) ∧
    (s.seq.stk = ⟨.label .ww2, .none⟩ :: rs →
      s.doReturn = .next (s.setSeq { s.seq with
        ust := .ww2, stk := rs, sr := s.seq.ret.extractLsb' 0 8 }))

/-! ### The wire (46_engine_and_device.md) -/

/-- A wire opcode sends its byte, takes DEV's answer and appends the pair to WIRE (R280, R283; that this
is the meaning of the table's row is the model's reading, DEDUCED, log 22). The byte is the opcode's
parameter, whatever its value; the default bytes are general knowledge (PRESUMED, log 4). -/
def Obligations.WireOpcodesAreOneExchange : Prop :=
  ∀ r ∈ [(Instr.wireRdid, Params.opcRdid), (.wireRdsr, Params.opcRdsr), (.wireRdsr2, Params.opcRdsr2),
      (.wireWren, Params.opcWren), (.wireWrr, Params.opcWrr), (.wireRead, Params.opcRead),
      (.wirePp, Params.opcPp), (.wireSe, Params.opcSe), (.wireBe, Params.opcBe),
      (.wireCe, Params.opcCe)],
    ∀ s : State, exec r.1 s = .next { s with
      wire := s.wire ++ [.byte (r.2 s.par) (s.answer (r.2 s.par))], dev := s.deviceAfter }

/-- ENG's shift, enabled exactly when R280 says: the head entry leaves TXQ; its bytes go out low byte
first, and the byte `r_k` that comes back for the k-th is the one DEV answers, given WIRE as it stands
after the k exchanges before it (R283): for a device that is any function of the history, and for every
device while no frame is open, `Config.device` of that WIRE and the byte sent. One word goes to RXQ, or
is lost with `rx_overrun` when RXQ is full; under `stop` the shift that empties TXQ clears `running` (R75,
R76, R280, R282). Not enabled, ENG does nothing. How DEV is held in State is the model's choice (DESIGN
CHOICE, log 8), and that a shift in the other settings of ENDIAN, FWIDTH and LINEAR is refused is its
reading (DEDUCED, log 14). -/
def Obligations.EngShiftsOneEntry : Prop :=
  ∀ s : State,
    (s.engEnabled = true ↔
      s.ctl.en = true ∧ s.ctl.running = true ∧ s.ctl.txq ≠ [] ∧
        (s.par.rxFullPolicy = .stall → s.ctl.rxq.length < s.par.rxDepth)) ∧
    (s.engEnabled = false → engStep s = .next s) ∧
    ∀ (w : Width) (v : Word) (q : List TxEntry), s.engEnabled = true →
      s.ctl.txq = { width := w, value := v } :: q → s.ctl.config.endian = .little →
      s.ctl.config.fwidth = .w32 → s.ctl.linear = false →
      ∃ (rs : List Byte) (devs : Nat → Device), rs.length = w.bytes ∧ devs 0 = s.dev ∧
        let sent (k : Nat) : Byte := v.extractLsb' (8 * k) 8
        let exchanged (k : Nat) : State := { s with
          dev := devs k
          wire := s.wire ++ (List.range k).map fun j => .byte (sent j) (rs.getD j 0) }
        (∀ k < w.bytes, rs.getD k 0 = (exchanged k).answer (sent k) ∧
          devs (k + 1) = (exchanged k).deviceAfter) ∧
        (s.dev = .oracle ∨ frameSent s.wire = none →
          ∀ k < w.bytes, rs.getD k 0 = Config.device (exchanged k).wire (sent k)) ∧
        engStep s = .next { exchanged w.bytes with
          flags :=
            if s.ctl.rxq.length < s.par.rxDepth then s.flags else { s.flags with rxOverrun := true }
          ctl := { s.ctl with
            txq := q
            running := if s.par.emptyPolicy = .stop ∧ q = [] then false else s.ctl.running
            rxq := if s.ctl.rxq.length < s.par.rxDepth then s.ctl.rxq ++ [rxWord rs] else s.ctl.rxq } }

/-- ENG's step, and HOST's, never take back a flag SEQ has read as 1: TXQ only shortens and RXQ only
grows at its end (R87, R86). -/
def Obligations.OthersKeepReadFlags : Prop :=
  (∀ s t : State, engStep s = .next t →
    (s.ctl.txnf = true → t.ctl.txnf = true) ∧ (s.ctl.rxne = true → t.ctl.rxne = true) ∧
      t.ctl.txq <:+ s.ctl.txq ∧ s.ctl.rxq <+: t.ctl.rxq) ∧
  ∀ s t : State, hostTurn s = .next t → t.ctl = s.ctl

/-! ### INIT (40_init_config.md) -/

/-- `PlatSet(RSTCTL)` unlocked: `rst <- 1`, FIFOs empty, `running` and EN clear, CONFIG at CFG_RESET with
its chip-select edge, RX_THRES, TX_THRES and LINEAR at some values, any at all; DEV and the fault flags
stay. Locked it has no effect. `PlatClear` likewise for `rst` (R153, Table 20-1; the free values: log
10). -/
def Obligations.ResetPulseClearsTheController : Prop :=
  ∀ s : State,
    (s.plat.locked = false → ∃ (rx tx : Nat) (lin : Bool) (es : List WireEvent),
      platSetReset s = { s with
        plat := { s.plat with rst := true }
        ctl := {
          en := false, config := s.par.cfgReset, linear := lin, rxThres := rx, txThres := tx
          txq := [], rxq := [], running := false }
        wire := s.wire ++ es
        draws := s.draws + 2
        regTrace := s.regTrace ++ [.wRstSet s.par.rstMask] } ∧
      (s.par.cfgReset.cslvl = .deasserted →
        es = if s.ctl.config.cslvl = .asserted then [.cs0] else [])) ∧
    (s.plat.locked = true →
      platSetReset s = { s with regTrace := s.regTrace ++ [.wRstSet s.par.rstMask] }) ∧
    (s.plat.locked = false →
      platClearReset s = { s with
        plat := { s.plat with rst := false }, regTrace := s.regTrace ++ [.wRstClear s.par.rstMask] }) ∧
    (s.plat.locked = true →
      platClearReset s = { s with regTrace := s.regTrace ++ [.wRstClear s.par.rstMask] })

/-- IN9 reads CONFIG into `old`; IN10 writes to `shadow` and CONFIG `old` with RSVD, ENDIAN and BAUDSEL
cleared and every field then combined by OR with the computed configuration value, for every CFG_RESET
(R151, R152). That IN10 also keeps `arg[0]`, the `manual_mode` of this INIT, in the bit `manual` is the
model's own (DESIGN CHOICE, log 15), and so are FWIDTH's two values and RSVD's width (DESIGN CHOICE, log
23). -/
def Obligations.ConfigurationIsMergedIntoTheOldOne : Prop :=
  ∀ s : State,
    (s.seq.ust = .in9 → seqTurn s = .next { s with
      seq := { s.seq with old := s.ctl.config, ust := .in10 }
      regTrace := s.regTrace ++ [.rConfig s.ctl.config] }) ∧
    (s.seq.ust = .in10 → ∃ c : CtlConfig,
      seqTurn s = .next { s with
        seq := { s.seq with shadow := some c, manual := s.seq.arg.getLsbD 0, ust := .in11 }
        ctl := { s.ctl with
          config := c
          running :=
            if s.par.emptyPolicy = .continue ∧ s.ctl.config.cslvl = .asserted then false
            else s.ctl.running }
        wire := s.wire ++ (if s.ctl.config.cslvl = .asserted then [.cs0] else [])
        regTrace := s.regTrace ++ [.wConfig c false] } ∧
      c.ifmode = .flashIo ∧ c.master = true ∧ c.fwidth = .w32 ∧ c.cslvl = .deasserted ∧
      c.endian = .little ∧ c.baudsel = false ∧ c.rsvd = 0 ∧ c.holdb = s.seq.old.holdb ∧
      (c.mstren = true ↔ s.seq.old.mstren = true ∨ s.seq.arg.getLsbD 0 = true) ∧
      (c.mancs = true ↔ s.seq.old.mancs = true ∨ s.seq.arg.getLsbD 0 = true) ∧
      (c.cpha = true ↔ s.seq.old.cpha = true ∨ s.par.cpha = true) ∧
      (c.cpol = true ↔ s.seq.old.cpol = true ∨ s.par.cpol = true) ∧
      ∀ i, c.baud.getLsbD i = true ↔ s.seq.old.baud.getLsbD i = true ∨ s.par.baudDiv.getLsbD i = true)

/-- INIT's eleven steps and DONE, taken one after another, under the default CFG_RESET: the accesses of
Table 40-2 in order, CONFIG and `shadow` at Table 40-1, and the state of R156; HMEM, DEV and the fault
flags stay (R150, R151, R152, R155, R156). The bit `manual` is the model's own (DESIGN CHOICE, log 15). -/
def Obligations.InitEstablishesTheIdleState : Prop :=
  ∀ (m : Bool) (s : State) (rest : List Agent), s.seq.ust = .in1 → s.seq.arg.getLsbD 0 = m →
    s.sched.turns = List.replicate 12 .seq ++ rest → s.par.cfgReset = Config.cfgReset →
    s.par.DepthsSuffice →
    let cfg : CtlConfig := {
      ifmode := .flashIo, endian := .little, holdb := false, mstren := m, mancs := m
      cslvl := .deasserted, baudsel := false, fwidth := .w32, baud := s.par.baudDiv
      cpha := s.par.cpha, cpol := s.par.cpol, master := true, rsvd := 0 }
    ∃ t : State, Host.Core.run Sys2Proof.core 12 s = .next t ∧
      t.ctl = {
        en := true, config := cfg, linear := false, rxThres := 1, txThres := 1, txq := [], rxq := []
        running := false } ∧
      t.plat = { locked := true, rst := false } ∧ t.seq.shadow = some cfg ∧
      t.ctl.rxne = false ∧ t.ctl.txnf = true ∧ t.ctl.txfull t.par = false ∧
      t.seq.ust = .idle ∧ t.seq.busy = false ∧ t.seq.result = 0 ∧ t.seq.manual = m ∧
      t.hmem = s.hmem ∧ t.dev = s.dev ∧ t.flags = s.flags ∧
      t.wire = s.wire ++ (if s.ctl.config.cslvl = .asserted then [.cs0] else []) ∧
      t.regTrace = s.regTrace ++
        [.wEn false, .wUnlock s.par.unlockKey, .wRstSet s.par.rstMask, .wRstClear s.par.rstMask,
          .wLock s.par.lockKey, .wRxThres 1, .wTxThres 1, .wLinear false, .rConfig Config.cfgReset,
          .wConfig cfg false, .wEn true]

/-! ### The step tables (42 to 45) -/

/-- The rows that are one primitive, one transmit entry or one call run exactly that (Tables 41-1, 42-1,
42-3, 42-4, 43-2, 45-1; R222, R253). The rows that call a procedure without a row in the opcode table push
their return record and go to its first row: WR1, ER1 and PP1 call WREN (R198), WW1 calls RDSR(OPC_RDSR)
(R240), and T1 calls the procedure of `op` (R199): RDID, RDSR(OPC_RDSR), RDSR(OPC_RDSR2), WREN. RD0 with
`count` not 0 goes to RD1 (Table 45-1). What a record holds is the model's reading (DEDUCED, log 16). -/
def Obligations.RowsRunTheirInstruction : Prop :=
  (∀ r ∈ ([(.dr2, fun _ => .pop .discard),
      (.x1, fun _ => .setRxth 1), (.x2, fun _ => .csOn), (.x3, fun s => .push s.seq.xw s.seq.xv),
      (.x4, fun _ => .start), (.x5, fun _ => .poll .rxne), (.x6, fun _ => .csOff),
      (.x7, fun _ => .pop .tmp),
      (.we1, fun s => .xfer .w1 (s.par.opcWren.zeroExtend 32)),
      (.rs1, fun s => .xfer .w2 (s.seq.opc.zeroExtend 32)),
      (.id1, fun s => .xfer .w4 (s.par.opcRdid.zeroExtend 32)),
      (.wr2, fun s => .xfer .w3 ((s.seq.arg ++ s.par.opcWrr).zeroExtend 32)),
      (.er2, fun s => .xfer .w4 (opa s.seq.fop s.seq.addr)), (.er3, fun _ => .waitWip),
      (.pp2, fun _ => .csOn), (.pp3, fun s => .opa4 s.par.opcPp s.seq.pa),
      (.pp4, fun s => .dat4 (s.seq.pb + s.seq.k.zeroExtend 32)),
      (.pp5, fun s => .setTxth (s.par.txDepth - 48 + 1)), (.pp6, fun _ => .start),
      (.pp7, fun _ => .poll .txnf), (.pp8, fun _ => .rxDrain),
      (.pp9, fun s => .dat4 (s.seq.pb + s.seq.k.zeroExtend 32)), (.pp10, fun _ => .start),
      (.pp11, fun _ => .setTxth 1), (.pp12, fun _ => .poll .txnf), (.pp13, fun _ => .csOff),
      (.pp14, fun _ => .rxDrain), (.pp15, fun _ => .waitWip),
      (.rd1, fun _ => .setRxth 1), (.rd2, fun _ => .csOn), (.rd3, fun s => .op1 s.par.opcRead),
      (.rd4, fun _ => .start), (.rd5, fun _ => .poll .rxne), (.rd6, fun _ => .pop .discard),
      (.rd7, fun s => if s.par.readDummy then .adr4 s.seq.addr else .adr3 s.seq.addr),
      (.rd8, fun _ => .start), (.rd9, fun _ => .poll .rxne), (.rd10, fun _ => .pop .discard),
      (.rd12, fun _ => .fil4), (.rd13, fun s => .setRxth s.seq.chunk.toNat),
      (.rd14, fun s => .setTxth (s.par.txDepth - 32 + 1)), (.rd15, fun _ => .start),
      (.l3, fun _ => .fil4), (.l5, fun s => .pop (.hbuf (s.seq.off + s.seq.k.zeroExtend 32))),
      (.l6, fun s => .setRxth s.seq.rxRem.toNat), (.rd16, fun _ => .csOff)] :
      List (Label × (State → Instr))),
    ∀ s : State, s.seq.ust = r.1 → seqTurn s = exec (r.2 s) s) ∧
  ∀ s : State,
    let called : Seq := { s.seq with stk := s.seq.returnRecord :: s.seq.stk }
    (s.seq.ust ∈ [Label.wr1, .er1, .pp1] → seqTurn s = .next (s.setSeq { called with ust := .we1 })) ∧
    (s.seq.ust = .ww1 →
      seqTurn s = .next (s.setSeq { called with ust := .rs1, opc := s.par.opcRdsr })) ∧
    (s.seq.ust = .t1 →
      (s.seq.op = 4 → seqTurn s = .next (s.setSeq { called with ust := .id1 })) ∧
      (s.seq.op = 5 →
        seqTurn s = .next (s.setSeq { called with ust := .rs1, opc := s.par.opcRdsr })) ∧
      (s.seq.op = 6 →
        seqTurn s = .next (s.setSeq { called with ust := .rs1, opc := s.par.opcRdsr2 })) ∧
      (s.seq.op = 7 → seqTurn s = .next (s.setSeq { called with ust := .we1 }))) ∧
    (s.seq.ust = .rd0 → s.seq.count ≠ 0 → seqTurn s = .next (s.setSeq { s.seq with ust := .rd1 }))

/-- Where a finished row goes (the "next" columns), every other register of SEQ staying: the rows with
one successor; PP3, which also sets `k` to 0; the two bursts of a page program, 16 and then 48 pushes;
the primer of `n` pushes; RD13, whose RD14 is no step for `count <= 63`. How bursts are counted and that
RD14 is skipped is the model's reading (DEDUCED, log 17, 18). -/
def Obligations.FinishedRowsGoWhereTheirTableSays : Prop :=
  (∀ r ∈ [(Label.in1, Label.in2), (.in2, .in3), (.in3, .in4), (.in4, .in5), (.in5, .in6), (.in6, .in7),
      (.in7, .in8), (.in8, .in9), (.in9, .in10), (.in10, .in11), (.dr2, .dr1),
      (.x1, .x2), (.x2, .x3), (.x3, .x4), (.x4, .x5), (.x5, .x6), (.x6, .x7),
      (.pp2, .pp3), (.pp5, .pp6), (.pp6, .pp7), (.pp7, .pp8), (.pp10, .pp11),
      (.pp11, .pp12), (.pp12, .pp13), (.pp13, .pp14),
      (.rd1, .rd2), (.rd2, .rd3), (.rd3, .rd4), (.rd4, .rd5), (.rd5, .rd6), (.rd6, .rd7), (.rd7, .rd8),
      (.rd8, .rd9), (.rd9, .rd10), (.rd10, .rd11), (.rd14, .rd15), (.rd15, .l1), (.rd16, .rd17)],
    ∀ q : Seq, q.ust = r.1 → q.afterRow = { q with ust := r.2 }) ∧
  (∀ q : Seq, q.afterRow.stk = q.stk ∧ q.afterRow.shadow = q.shadow) ∧
  (∀ q : Seq, q.ust = .pp3 → q.afterRow = { q with k := 0, ust := .pp4 }) ∧
  (∀ q : Seq, q.ust = .pp4 → q.k.toNat < 16 →
    (q.k.toNat < 15 → q.afterRow = { q with k := q.k + 1 }) ∧
    (q.k.toNat = 15 → q.afterRow = { q with k := 16, ust := .pp5 })) ∧
  (∀ q : Seq, q.ust = .pp9 → q.k.toNat < 64 →
    (q.k.toNat < 63 → q.afterRow = { q with k := q.k + 1 }) ∧
    (q.k.toNat = 63 → q.afterRow = { q with k := 0, ust := .pp10 })) ∧
  (∀ q : Seq, q.ust = .rd12 → q.k.toNat < q.n.toNat →
    (q.k.toNat + 1 < q.n.toNat → q.afterRow = { q with k := q.k + 1 }) ∧
    (q.k.toNat + 1 = q.n.toNat → q.afterRow = { q with k := 0, ust := .rd13 })) ∧
  ∀ q : Seq, q.ust = .rd13 →
    q.afterRow = { q with ust := if 63 < q.count.toNat then .rd14 else .rd15 }

/-- WRITE computes its page count, calls PROGRAM_PAGE for page `i` with `(addr + 256*i) mod 2^32` and
`64*i` while `i < chunks`, counts, and ends with `result <- 0` (R220, Table 43-1). -/
def Obligations.WriteCallsItsPages : Prop :=
  ∀ s : State,
    (s.seq.ust = .wt1 → seqTurn s = .next (s.setSeq { s.seq with
      chunks := chunksOf s.seq.count, pageI := 0, ust := .wt2 })) ∧
    (s.seq.ust = .wt2 → s.seq.pageI.toNat < s.seq.chunks.toNat →
      seqTurn s = exec (.programPage (s.seq.addr + 256 * s.seq.pageI) (64 * s.seq.pageI)) s) ∧
    (s.seq.ust = .wt2 → s.seq.chunks.toNat ≤ s.seq.pageI.toNat →
      seqTurn s = .next (s.setSeq { s.seq with result := 0, ust := .done })) ∧
    (s.seq.ust = .wt3 → seqTurn s = .next (s.setSeq { s.seq with
      pageI := s.seq.pageI + 1, ust := .wt2 }))

/-- WAIT_WIP reads the status register by RDSR(OPC_RDSR), tests WIP_MASK only, and reads again while the
bit is set, without bound; else it returns (R240, R241, R242). -/
def Obligations.WaitWipReadsUntilClear : Prop :=
  ∀ s : State,
    (s.seq.ust = .ww1 → seqTurn s = .next (s.setSeq { s.seq with
      stk := s.seq.returnRecord :: s.seq.stk, ust := .rs1, opc := s.par.opcRdsr })) ∧
    (s.seq.ust = .ww2 → s.seq.sr &&& s.par.wipMask ≠ 0 →
      seqTurn s = .next (s.setSeq { s.seq with ust := .ww1 })) ∧
    (s.seq.ust = .ww2 → s.seq.sr &&& s.par.wipMask = 0 → seqTurn s = s.doReturn)

/-- RX_DRAIN pops while RXNE reads 1 and returns when it reads 0 (R178, Table 41-1). -/
def Obligations.DrainStopsAtTheFlag : Prop :=
  ∀ s : State, s.seq.ust = .dr1 →
    let read := { s with
      regTrace := s.regTrace ++ [Access.rStatus s.ctl.rxne s.ctl.txnf (s.ctl.txfull s.par)] }
    (s.ctl.rxThres ≤ s.ctl.rxq.length →
      seqTurn s = .next (read.setSeq { s.seq with ust := .dr2 })) ∧
    (s.ctl.rxq.length < s.ctl.rxThres → seqTurn s = read.doReturn)

/-- The pump setup of RD11: above 63 words, 63 filler words, a chunk of 32 and `count - 63` to push
later; else exactly `count` of each (R253, R254). That RD11 sets `k` to 0 for the burst is the model's
reading (DEDUCED, log 17). -/
def Obligations.PumpSetupComparesCountWith63 : Prop :=
  ∀ s : State, s.seq.ust = .rd11 →
    (63 < s.seq.count.toNat → seqTurn s = .next (s.setSeq { s.seq with
      rxRem := s.seq.count, off := 0, k := 0, n := 63, txRem := s.seq.count - 63, chunk := 32
      ust := .rd12 })) ∧
    (s.seq.count.toNat ≤ 63 → ∃ c : BitVec 7, c.toNat = s.seq.count.toNat ∧
      seqTurn s = .next (s.setSeq { s.seq with
        rxRem := s.seq.count, off := 0, k := 0, n := c, txRem := 0, chunk := c, ust := .rd12 }))

/-- The pump loop: terminate at `rx_rem = 0`; the transmit half first, while filler remains; each half
reads STATUS once and is skipped when its flag reads 0; a burst is `min(32, tx_rem)` (R255, Table
45-1). That L2 and L4 set `k` to 0 for their burst is the model's reading (DEDUCED, log 17). -/
def Obligations.PumpLoopServesTransmitFirst : Prop :=
  ∀ s : State,
    let read := { s with
      regTrace := s.regTrace ++ [Access.rStatus s.ctl.rxne s.ctl.txnf (s.ctl.txfull s.par)] }
    (s.seq.ust = .l1 → seqTurn s = .next (s.setSeq { s.seq with
      ust := if s.seq.rxRem = 0 then .rd16 else if s.seq.txRem = 0 then .l4 else .l2 })) ∧
    (s.seq.ust = .l2 → s.ctl.txnf = true → ∃ n : BitVec 7, n.toNat = min 32 s.seq.txRem.toNat ∧
      seqTurn s = .next (read.setSeq { s.seq with n := n, k := 0, ust := .l3 })) ∧
    (s.seq.ust = .l2 → s.ctl.txnf = false → seqTurn s = .next (read.setSeq { s.seq with ust := .l4 })) ∧
    (s.seq.ust = .l4 → s.ctl.rxne = true →
      seqTurn s = .next (read.setSeq { s.seq with k := 0, ust := .l5 })) ∧
    (s.seq.ust = .l4 → s.ctl.rxne = false → seqTurn s = .next (read.setSeq { s.seq with ust := .l1 }))

/-- After the last push of a burst `tx_rem` falls by `n`; after the last pop of a drain `off` rises and
`rx_rem` falls by `chunk`, and L6 follows exactly when `0 < rx_rem <= 63`: it makes `chunk` the exact
remainder (R255, R256). How a burst is counted, `k` going back to 0, and that L5 goes straight to L1 when
L6's condition fails, are the model's reading (DEDUCED, log 17 and 18). -/
def Obligations.PumpBurstsAccountForTheirWords : Prop :=
  ∀ q : Seq,
    (q.ust = .l3 → q.k.toNat < q.n.toNat →
      (q.k.toNat + 1 < q.n.toNat → q.afterRow = { q with k := q.k + 1 }) ∧
      (q.k.toNat + 1 = q.n.toNat →
        q.afterRow = { q with k := 0, txRem := q.txRem - q.n.zeroExtend 32, ust := .l4 })) ∧
    (q.ust = .l5 → q.k.toNat < q.chunk.toNat →
      (q.k.toNat + 1 < q.chunk.toNat → q.afterRow = { q with k := q.k + 1 }) ∧
      (q.k.toNat + 1 = q.chunk.toNat → ∀ rem, rem = q.rxRem - q.chunk.zeroExtend 32 →
        q.afterRow = { q with
          k := 0, off := q.off + q.chunk.zeroExtend 32, rxRem := rem
          ust := if 0 < rem.toNat ∧ rem.toNat ≤ 63 then .l6 else .l1 })) ∧
    (q.ust = .l6 → q.rxRem.toNat ≤ 63 →
      q.afterRow.chunk.toNat = q.rxRem.toNat ∧ q.afterRow.ust = .l1 ∧
        q.afterRow = { q with chunk := q.afterRow.chunk, ust := .l1 })

/-- The completion step, and the value each procedure writes to `result` before it (R115, Table 30-3). -/
def Obligations.CommandsCompleteWithTheirResult : Prop :=
  ∀ s : State,
    (s.seq.ust = .done → seqTurn s = .next (s.setSeq { s.seq with busy := false, ust := .idle })) ∧
    (s.seq.ust = .in11 → seqTurn s = .next { s with
      ctl := { s.ctl with en := true }
      seq := { s.seq with result := 0, ust := .done }, regTrace := s.regTrace ++ [.wEn true] }) ∧
    (s.seq.ust = .wr3 ∨ s.seq.ust = .er4 ∨
        s.seq.ust = .wt2 ∧ s.seq.chunks.toNat ≤ s.seq.pageI.toNat ∨ s.seq.ust = .rd0 ∧ s.seq.count = 0 →
      seqTurn s = .next (s.setSeq { s.seq with result := 0, ust := .done })) ∧
    (s.seq.ust = .t2 →
      seqTurn s = .next (s.setSeq { s.seq with result := s.seq.ret, ust := .done })) ∧
    (s.seq.ust = .rd17 →
      seqTurn s = .next (s.setSeq { s.seq with result := s.seq.off, ust := .done })) ∧
    (s.seq.ust = .we2 ∨ s.seq.ust = .rs2 → ∃ v : Word, v.toNat = s.seq.tmp.toNat / 2 ^ 24 ∧
      seqTurn s = (s.setSeq { s.seq with ret := v }).doReturn) ∧
    (s.seq.ust = .id2 → ∃ v : Word, v.toNat = s.seq.tmp.toNat / 2 ^ 8 ∧
      seqTurn s = (s.setSeq { s.seq with ret := v }).doReturn)

/-- READ and WRITE of no words complete with `result = 0` and touch neither controller, HMEM, REGTRACE
nor WIRE (R251, R220). -/
def Obligations.ZeroWordCommandsTouchNothing : Prop :=
  ∀ (s : State) (rest : List Agent), s.seq.count = 0 →
    (s.seq.ust = .rd0 → s.sched.turns = [.seq, .seq] ++ rest →
      ∃ t : State, Host.Core.run Sys2Proof.core 2 s = .next t ∧
        t.seq.ust = .idle ∧ t.seq.busy = false ∧ t.seq.result = 0 ∧ t.ctl = s.ctl ∧ t.hmem = s.hmem ∧
        t.regTrace = s.regTrace ∧ t.wire = s.wire) ∧
    (s.seq.ust = .wt1 → s.sched.turns = [.seq, .seq, .seq] ++ rest →
      ∃ t : State, Host.Core.run Sys2Proof.core 3 s = .next t ∧
        t.seq.ust = .idle ∧ t.seq.busy = false ∧ t.seq.result = 0 ∧ t.ctl = s.ctl ∧ t.hmem = s.hmem ∧
        t.regTrace = s.regTrace ∧ t.wire = s.wire)

/-! ### Steps (R85, R285, R286; log 1, 2) -/

/-- A step runs the decoded instruction: HOST's descriptor at its turn, the row at `ust` at SEQ's, and at
ENG's the opcode byte of a 1-byte entry, followed by the delivery of its answer. Around exec the step
only takes the turn and, for HOST, the move; a refused descriptor changes nothing but HOST's record of
it. Whose turn it is: the head of the list of turns, else the schedule `mode`, S-POLL and S-EAGER as R286
has them. The turn list, the modes and `tick` are the model's choice (DESIGN CHOICE, log 1), and so are
HOST's list of moves (log 2) and its record of refusals (log 3); that ENG's 1-byte entry runs a wire
opcode is its reading (DEDUCED, log 22). -/
def Obligations.StepRunsTheDecodedInstruction : Prop :=
  (∀ (d0 d1 d2 d3 : Word) (ms : List HostMove) (i : Instr) (s : State), s.nextAgent = .host →
    s.host.moves = .command d0 d1 d2 d3 :: ms → decode s.par (.descriptor d0 d1 d2 d3) = .ok i →
    let u : State := { s.tick with host := { s.host with moves := ms } }
    (∀ t, exec i u = .next t → step s = .next t) ∧
      ∀ e, exec i u = .refused e →
        step s = .next { u with host := { u.host with refusals := u.host.refusals ++ [e] } }) ∧
  (∀ (i : Instr) (s : State), s.nextAgent = .seq → microInstr s = some i → step s = exec i s.tick) ∧
  (∀ (b : Byte) (q : List TxEntry) (i : Instr) (s : State), s.nextAgent = .eng →
    s.engEnabled = true → s.shiftRefusal = none →
    s.ctl.txq = { width := .w1, value := b.zeroExtend 32 } :: q → decode s.par (.opcode b) = .ok i →
    ∃ u, exec i s.tick = .next u ∧
      step s = .next (deliver (rxWord [s.answer b]) (u.setCtl { u.ctl with
        txq := q, running := runningAfterShift s.par q s.ctl.running }))) ∧
  ∀ s : State, s.tick = { s with sched := s.tick.sched } ∧ s.tick.sched.turns = s.sched.turns.tail ∧
    (s.tick.sched.polled = true ↔ s.nextAgent = .seq ∧
      s.seq.ust ∈ [Label.x5, .rd5, .rd9, .pp7, .pp12, .dr1, .l2, .l4]) ∧
    (∀ a rest, s.sched.turns = a :: rest → s.nextAgent = a ∧ s.tick.sched.mode = s.sched.mode) ∧
    (s.sched.turns = [] →
      let seqOrHost : Agent := if s.seq.ust = .idle then .host else .seq
      (s.sched.mode = .sPoll → s.tick.sched.mode = .sPoll ∧
        s.nextAgent = if s.sched.polled = true ∧ s.engEnabled = true then .eng else seqOrHost) ∧
      (s.sched.mode = .sEager → s.tick.sched.mode = .sEager ∧
        s.nextAgent = if s.engEnabled = true then .eng else seqOrHost) ∧
      (∀ a l, s.sched.mode = .cycle (a :: l) →
        s.nextAgent = a ∧ s.tick.sched.mode = .cycle (l ++ [a])) ∧
      ∀ i, s.sched.mode = .free i → s.tick.sched.mode = .free (i + 1))

/-- HOST's other moves, only while SEQ is idle: read `result`, read or write a word of HMEM; during a
command they are refused (R285, R89; that they are refused is the model's reading of U16, DESIGN CHOICE,
log 2). A refused move, a command among them, leaves the state unchanged and HOST goes on with its next
one (R113, Table 60-1, P5); its record in `refusals` is the model's own (DESIGN CHOICE, log 3). -/
def Obligations.HostMovesOnlyWhileIdle : Prop :=
  ∀ (a v d0 d1 d2 d3 : Word) (e : Refusal) (ms : List HostMove) (s : State),
    (s.seq.busy = false → s.seq.ust = .idle →
      (s.host.moves = .readResult :: ms → hostTurn s = .next { s with
        host := { s.host with moves := ms, seen := s.host.seen ++ [s.seq.result] } }) ∧
      (s.host.moves = .memRead a :: ms → aligned a = true → hostTurn s = .next { s with
        host := { s.host with moves := ms, seen := s.host.seen ++ [s.hmem.readWord a] } }) ∧
      (s.host.moves = .memWrite a v :: ms → aligned a = true → hostTurn s = .next { s with
        host := { s.host with moves := ms }, hmem := s.hmem.writeWord a v })) ∧
    (s.seq.busy = true →
      (s.host.moves = .readResult :: ms ∨ s.host.moves = .memRead a :: ms ∨
        s.host.moves = .memWrite a v :: ms) → hostTurn s = .next { s with
        host := { s.host with moves := ms, refusals := s.host.refusals ++ [.busy] } }) ∧
    (s.host.moves = .command d0 d1 d2 d3 :: ms →
      hostCommand d0 d1 d2 d3 { s with host := { s.host with moves := ms } } = .refused e →
      hostTurn s = .next { s with
        host := { s.host with moves := ms, refusals := s.host.refusals ++ [e] } }) ∧
    (s.host.moves = [] → hostTurn s = .next s)

/-! ### Frames and whole-machine rules -/

/-- The frame of every instruction: the parameters, the platform, HOST, the schedule, EN and LINEAR stay;
HMEM is written by `HBuf[i] <- POP` only; CONFIG and `running` by CS_ON, CS_OFF and START only, `shadow`
by the first two; RXQ is read by POP only; each threshold is written by its primitive only, TXQ by the
pushes only; the command registers and `busy` are written by a command only, `tmp` by POP, WIRE by a
wire opcode, CS_ON, CS_OFF and START; `result` and the registers that only local steps write stay; at
most one access is recorded (R10, R157, R170 to R177, R179). The working registers: XFER alone binds `xw`
and `xv`; PROGRAM_PAGE binds `pa` and `pb`; a primitive or transmit entry moves `k` at the six rows that
begin or count a burst, `tx_rem` at L3, `rx_rem` and `off` at L5, `chunk` at L6, and at X7, which returns,
what a return brings back; everything else leaves them alone. How bursts are counted and what a return
brings back is the model's reading (DEDUCED, log 16, 17). -/
def Obligations.InstructionsChangeOnlyWhatTheyName : Prop :=
  ∀ (i : Instr) (s t : State), exec i s = .next t →
    t.par = s.par ∧ t.plat = s.plat ∧ t.host = s.host ∧ t.sched = s.sched ∧
    t.ctl.en = s.ctl.en ∧ t.ctl.linear = s.ctl.linear ∧
    ((∀ j, i ≠ .pop (.hbuf j)) → t.hmem = s.hmem) ∧
    (i ≠ .csOn → i ≠ .csOff → t.seq.shadow = s.seq.shadow) ∧
    (i ≠ .csOn → i ≠ .csOff → i ≠ .start →
      t.ctl.config = s.ctl.config ∧ t.ctl.running = s.ctl.running) ∧
    ((∀ dst, i ≠ .pop dst) → t.ctl.rxq = s.ctl.rxq ∧ t.flags.rxUnderflow = s.flags.rxUnderflow) ∧
    ((∀ n, i ≠ .setRxth n) → t.ctl.rxThres = s.ctl.rxThres) ∧
    ((∀ n, i ≠ .setTxth n) → t.ctl.txThres = s.ctl.txThres) ∧
    (Instr.pushes i = false → t.ctl.txq = s.ctl.txq ∧ t.flags.txOverflow = s.flags.txOverflow) ∧
    t.flags.rxOverrun = s.flags.rxOverrun ∧
    t.seq.result = s.seq.result ∧ t.seq.manual = s.seq.manual ∧
    t.seq.old = s.seq.old ∧ t.seq.n = s.seq.n ∧ t.seq.ret = s.seq.ret ∧ t.seq.opc = s.seq.opc ∧
    (Instr.isCommand i = false →
      t.seq.op = s.seq.op ∧ t.seq.fop = s.seq.fop ∧ t.seq.arg = s.seq.arg ∧ t.seq.addr = s.seq.addr ∧
        t.seq.ptr = s.seq.ptr ∧ t.seq.count = s.seq.count ∧ t.seq.busy = s.seq.busy) ∧
    (i ≠ .pop .tmp → t.seq.tmp = s.seq.tmp) ∧ ((∀ dst, i ≠ .pop dst) → t.draws = s.draws) ∧
    (Instr.isOpcode i = false →
      t.dev = s.dev ∧ (i ≠ .csOn → i ≠ .csOff → i ≠ .start → t.wire = s.wire)) ∧
    ((∀ w v, i ≠ .xfer w v) → t.seq.xw = s.seq.xw ∧ t.seq.xv = s.seq.xv) ∧
    ((Instr.isAccess i = true → s.seq.ust ≠ .x7) →
      t.seq.pageI = s.seq.pageI ∧ t.seq.chunks = s.seq.chunks ∧ t.seq.sr = s.seq.sr ∧
        ((∀ a b, i ≠ .programPage a b) → t.seq.pa = s.seq.pa ∧ t.seq.pb = s.seq.pb)) ∧
    ((Instr.isAccess i = true →
        s.seq.ust ∉ [Label.x7, .pp3, .pp4, .pp9, .rd12, .l3, .l5]) → t.seq.k = s.seq.k) ∧
    ((Instr.isAccess i = true → s.seq.ust ≠ .l3) → t.seq.txRem = s.seq.txRem) ∧
    ((Instr.isAccess i = true → s.seq.ust ≠ .l5) →
      t.seq.rxRem = s.seq.rxRem ∧ t.seq.off = s.seq.off) ∧
    ((Instr.isAccess i = true → s.seq.ust ≠ .l6) → t.seq.chunk = s.seq.chunk) ∧
    (Instr.isOpcode i = true ∨ Instr.isAccess i = true ∧ s.seq.ust ≠ .x7 → t.seq.stk = s.seq.stk) ∧
    ∃ l : List Access, l.length ≤ 1 ∧ t.regTrace = s.regTrace ++ l

/-- After INIT nothing writes EN, LINEAR or a platform register: only SEQ's rows IN1 to IN5, IN8 and IN11
do; and CONFIG and `shadow` move only at IN3 and IN10 and at a CS_ON, CS_OFF or START of SEQ; HMEM only
at `HBuf[i] <- POP` and by HOST; the parameters never (R157, R179, R91, R311). -/
def Obligations.OnlyInitTouchesEnableLinearAndPlatform : Prop :=
  ∀ s t : State, step s = .next t →
    t.par = s.par ∧
    ((s.nextAgent = .seq → s.seq.ust ∉ [Label.in1, .in2, .in3, .in4, .in5, .in8, .in11]) →
      t.ctl.en = s.ctl.en ∧ t.ctl.linear = s.ctl.linear ∧ t.plat = s.plat) ∧
    ((s.nextAgent = .seq → s.seq.ust ≠ .in3 ∧ s.seq.ust ≠ .in10 ∧
        microInstr s ∉ [some Instr.csOn, some .csOff, some .start]) →
      t.ctl.config = s.ctl.config ∧ t.seq.shadow = s.seq.shadow) ∧
    ((s.nextAgent = .seq → s.seq.ust ≠ .l5) →
      (s.nextAgent = .host → ∀ a v ms, s.host.moves ≠ .memWrite a v :: ms) → t.hmem = s.hmem)

/-- The fault flags are sticky, and the two traces only grow, REGTRACE by at most one record a step (R38,
R40, R10). -/
def Obligations.FlagsAndTracesOnlyGrow : Prop :=
  ∀ s t : State, step s = .next t →
    s.flags.Grows t.flags ∧ s.wire <+: t.wire ∧
      ∃ l : List Access, l.length ≤ 1 ∧ t.regTrace = s.regTrace ++ l

/-! ### Invariants that every step keeps -/

/-- HMEM keeps its canonical form. -/
def Obligations.StepKeepsMemoryCanonical : Prop :=
  ∀ s t : State, s.hmem.wf = true → step s = .next t → t.hmem.wf = true

/-- Neither FIFO ever holds more than its capacity (R35). -/
def Obligations.StepKeepsFifosBounded : Prop :=
  ∀ s t : State, s.FifosBounded → step s = .next t → t.FifosBounded

/-- The shadow invariant R41: outside INIT's reset every stored field of CONFIG equals `shadow`'s. -/
def Obligations.StepKeepsShadowInvariant : Prop :=
  ∀ s t : State, s.ShadowInvariant → step s = .next t → t.ShadowInvariant

/-- The stack holds the records of the chain of calls that leads to the row (R180). -/
def Obligations.StepKeepsStackInvariant : Prop :=
  ∀ s t : State, s.StackInvariant → step s = .next t → t.StackInvariant

/-- With that discipline a `return` with `stk` empty cannot occur, nothing else faults, and the stack is
at most 4 deep (R23, R180). -/
def Obligations.StackIsAtMostFourDeep : Prop :=
  ∀ s : State, s.StackInvariant → s.seq.stk.length ≤ 4 ∧ ∀ e : Fault, step s ≠ .fault e

/-- The FIFO plan holds after every step of every schedule (R42, R190, R224, R259). -/
def Obligations.StepKeepsFifoPlan : Prop :=
  ∀ s t : State, s.StackInvariant → s.FifoPlan → s.par.DepthsSuffice → step s = .next t → t.FifoPlan

/-- Under the plan no step of any schedule sets `tx_overflow` or `rx_underflow` (R38, R224(a), (b),
R259(a), (b)). -/
def Obligations.NoScheduleOverflowsOrUnderflows : Prop :=
  ∀ s t : State, s.StackInvariant → s.FifoPlan → s.par.DepthsSuffice → step s = .next t →
    t.flags.txOverflow = s.flags.txOverflow ∧ t.flags.rxUnderflow = s.flags.rxUnderflow

/-- Chip-select is asserted exactly between a CS_ON and its CS_OFF, and no transaction runs outside a
frame, after every step of every schedule (R42, R345). -/
def Obligations.StepKeepsFramePlan : Prop :=
  ∀ s t : State, s.RunInvariant → step s = .next t → t.FramePlan

/-- What the acceptance of a command has checked stays true until it completes (R22, R113). -/
def Obligations.StepKeepsCommandPlan : Prop :=
  ∀ s t : State, s.StackInvariant → s.CommandPlan → step s = .next t → t.CommandPlan

/-- The idle invariant R42: in every run, whenever SEQ is idle after an INIT, both FIFOs are empty,
nothing runs, chip-select is deasserted and ENG is enabled. -/
def Obligations.IdleAfterInitIsQuiescent : Prop :=
  ∀ s : State, s.RunInvariant → s.seq.ust = .idle → s.seq.shadow ≠ none → s.Quiescent

/-- SEQ is never stuck: in every run each of its rows has a next state, whatever the FIFOs hold (R286);
none of its threshold writes is refused (R32) and none of its buffer accesses is misaligned (R80). -/
def Obligations.SeqAlwaysMoves : Prop :=
  ∀ s : State, s.RunInvariant → ∃ t, seqTurn s = .next t
end

