-- ==== Sys2Proof/Laws/State.lean ====
section
/-! SUPPORT. One lemma per field of State per update, true by rfl, so that no later proof unfolds a
record update. -/

namespace Sys2Proof.Machine

/-! ### setSeq -/

@[simp] theorem State.setSeq_seq (s : State) (q : Seq) : (s.setSeq q).seq = q := rfl
@[simp] theorem State.setSeq_ctl (s : State) (q : Seq) : (s.setSeq q).ctl = s.ctl := rfl
@[simp] theorem State.setSeq_plat (s : State) (q : Seq) : (s.setSeq q).plat = s.plat := rfl
@[simp] theorem State.setSeq_dev (s : State) (q : Seq) : (s.setSeq q).dev = s.dev := rfl
@[simp] theorem State.setSeq_hmem (s : State) (q : Seq) : (s.setSeq q).hmem = s.hmem := rfl
@[simp] theorem State.setSeq_flags (s : State) (q : Seq) : (s.setSeq q).flags = s.flags := rfl
@[simp] theorem State.setSeq_regTrace (s : State) (q : Seq) : (s.setSeq q).regTrace = s.regTrace := rfl
@[simp] theorem State.setSeq_wire (s : State) (q : Seq) : (s.setSeq q).wire = s.wire := rfl
@[simp] theorem State.setSeq_host (s : State) (q : Seq) : (s.setSeq q).host = s.host := rfl
@[simp] theorem State.setSeq_sched (s : State) (q : Seq) : (s.setSeq q).sched = s.sched := rfl
@[simp] theorem State.setSeq_draws (s : State) (q : Seq) : (s.setSeq q).draws = s.draws := rfl
@[simp] theorem State.setSeq_par (s : State) (q : Seq) : (s.setSeq q).par = s.par := rfl

/-! ### setCtl -/

@[simp] theorem State.setCtl_seq (s : State) (c : Ctl) : (s.setCtl c).seq = s.seq := rfl
@[simp] theorem State.setCtl_ctl (s : State) (c : Ctl) : (s.setCtl c).ctl = c := rfl
@[simp] theorem State.setCtl_plat (s : State) (c : Ctl) : (s.setCtl c).plat = s.plat := rfl
@[simp] theorem State.setCtl_dev (s : State) (c : Ctl) : (s.setCtl c).dev = s.dev := rfl
@[simp] theorem State.setCtl_hmem (s : State) (c : Ctl) : (s.setCtl c).hmem = s.hmem := rfl
@[simp] theorem State.setCtl_flags (s : State) (c : Ctl) : (s.setCtl c).flags = s.flags := rfl
@[simp] theorem State.setCtl_regTrace (s : State) (c : Ctl) : (s.setCtl c).regTrace = s.regTrace := rfl
@[simp] theorem State.setCtl_wire (s : State) (c : Ctl) : (s.setCtl c).wire = s.wire := rfl
@[simp] theorem State.setCtl_host (s : State) (c : Ctl) : (s.setCtl c).host = s.host := rfl
@[simp] theorem State.setCtl_sched (s : State) (c : Ctl) : (s.setCtl c).sched = s.sched := rfl
@[simp] theorem State.setCtl_draws (s : State) (c : Ctl) : (s.setCtl c).draws = s.draws := rfl
@[simp] theorem State.setCtl_par (s : State) (c : Ctl) : (s.setCtl c).par = s.par := rfl

/-! ### setPlat -/

@[simp] theorem State.setPlat_seq (s : State) (p : Plat) : (s.setPlat p).seq = s.seq := rfl
@[simp] theorem State.setPlat_ctl (s : State) (p : Plat) : (s.setPlat p).ctl = s.ctl := rfl
@[simp] theorem State.setPlat_plat (s : State) (p : Plat) : (s.setPlat p).plat = p := rfl
@[simp] theorem State.setPlat_dev (s : State) (p : Plat) : (s.setPlat p).dev = s.dev := rfl
@[simp] theorem State.setPlat_hmem (s : State) (p : Plat) : (s.setPlat p).hmem = s.hmem := rfl
@[simp] theorem State.setPlat_flags (s : State) (p : Plat) : (s.setPlat p).flags = s.flags := rfl
@[simp] theorem State.setPlat_regTrace (s : State) (p : Plat) : (s.setPlat p).regTrace = s.regTrace := rfl
@[simp] theorem State.setPlat_wire (s : State) (p : Plat) : (s.setPlat p).wire = s.wire := rfl
@[simp] theorem State.setPlat_host (s : State) (p : Plat) : (s.setPlat p).host = s.host := rfl
@[simp] theorem State.setPlat_sched (s : State) (p : Plat) : (s.setPlat p).sched = s.sched := rfl
@[simp] theorem State.setPlat_draws (s : State) (p : Plat) : (s.setPlat p).draws = s.draws := rfl
@[simp] theorem State.setPlat_par (s : State) (p : Plat) : (s.setPlat p).par = s.par := rfl

/-! ### record -/

@[simp] theorem State.record_seq (s : State) (a : Access) : (s.record a).seq = s.seq := rfl
@[simp] theorem State.record_ctl (s : State) (a : Access) : (s.record a).ctl = s.ctl := rfl
@[simp] theorem State.record_plat (s : State) (a : Access) : (s.record a).plat = s.plat := rfl
@[simp] theorem State.record_dev (s : State) (a : Access) : (s.record a).dev = s.dev := rfl
@[simp] theorem State.record_hmem (s : State) (a : Access) : (s.record a).hmem = s.hmem := rfl
@[simp] theorem State.record_flags (s : State) (a : Access) : (s.record a).flags = s.flags := rfl
@[simp] theorem State.record_regTrace (s : State) (a : Access) : (s.record a).regTrace = s.regTrace ++ [a] := rfl
@[simp] theorem State.record_wire (s : State) (a : Access) : (s.record a).wire = s.wire := rfl
@[simp] theorem State.record_host (s : State) (a : Access) : (s.record a).host = s.host := rfl
@[simp] theorem State.record_sched (s : State) (a : Access) : (s.record a).sched = s.sched := rfl
@[simp] theorem State.record_draws (s : State) (a : Access) : (s.record a).draws = s.draws := rfl
@[simp] theorem State.record_par (s : State) (a : Access) : (s.record a).par = s.par := rfl

/-! ### emit -/

@[simp] theorem State.emit_seq (s : State) (es : List WireEvent) : (s.emit es).seq = s.seq := rfl
@[simp] theorem State.emit_ctl (s : State) (es : List WireEvent) : (s.emit es).ctl = s.ctl := rfl
@[simp] theorem State.emit_plat (s : State) (es : List WireEvent) : (s.emit es).plat = s.plat := rfl
@[simp] theorem State.emit_dev (s : State) (es : List WireEvent) : (s.emit es).dev = s.dev := rfl
@[simp] theorem State.emit_hmem (s : State) (es : List WireEvent) : (s.emit es).hmem = s.hmem := rfl
@[simp] theorem State.emit_flags (s : State) (es : List WireEvent) : (s.emit es).flags = s.flags := rfl
@[simp] theorem State.emit_regTrace (s : State) (es : List WireEvent) : (s.emit es).regTrace = s.regTrace := rfl
@[simp] theorem State.emit_wire (s : State) (es : List WireEvent) : (s.emit es).wire = s.wire ++ es := rfl
@[simp] theorem State.emit_host (s : State) (es : List WireEvent) : (s.emit es).host = s.host := rfl
@[simp] theorem State.emit_sched (s : State) (es : List WireEvent) : (s.emit es).sched = s.sched := rfl
@[simp] theorem State.emit_draws (s : State) (es : List WireEvent) : (s.emit es).draws = s.draws := rfl
@[simp] theorem State.emit_par (s : State) (es : List WireEvent) : (s.emit es).par = s.par := rfl

/-! ### goto -/

@[simp] theorem State.goto_seq (s : State) (l : Label) : (s.goto l).seq = { s.seq with ust := l } := rfl
@[simp] theorem State.goto_ctl (s : State) (l : Label) : (s.goto l).ctl = s.ctl := rfl
@[simp] theorem State.goto_plat (s : State) (l : Label) : (s.goto l).plat = s.plat := rfl
@[simp] theorem State.goto_dev (s : State) (l : Label) : (s.goto l).dev = s.dev := rfl
@[simp] theorem State.goto_hmem (s : State) (l : Label) : (s.goto l).hmem = s.hmem := rfl
@[simp] theorem State.goto_flags (s : State) (l : Label) : (s.goto l).flags = s.flags := rfl
@[simp] theorem State.goto_regTrace (s : State) (l : Label) : (s.goto l).regTrace = s.regTrace := rfl
@[simp] theorem State.goto_wire (s : State) (l : Label) : (s.goto l).wire = s.wire := rfl
@[simp] theorem State.goto_host (s : State) (l : Label) : (s.goto l).host = s.host := rfl
@[simp] theorem State.goto_sched (s : State) (l : Label) : (s.goto l).sched = s.sched := rfl
@[simp] theorem State.goto_draws (s : State) (l : Label) : (s.goto l).draws = s.draws := rfl
@[simp] theorem State.goto_par (s : State) (l : Label) : (s.goto l).par = s.par := rfl

/-! ### setMoves -/

@[simp] theorem State.setMoves_seq (s : State) (ms : List HostMove) : (s.setMoves ms).seq = s.seq := rfl
@[simp] theorem State.setMoves_ctl (s : State) (ms : List HostMove) : (s.setMoves ms).ctl = s.ctl := rfl
@[simp] theorem State.setMoves_plat (s : State) (ms : List HostMove) : (s.setMoves ms).plat = s.plat := rfl
@[simp] theorem State.setMoves_dev (s : State) (ms : List HostMove) : (s.setMoves ms).dev = s.dev := rfl
@[simp] theorem State.setMoves_hmem (s : State) (ms : List HostMove) : (s.setMoves ms).hmem = s.hmem := rfl
@[simp] theorem State.setMoves_flags (s : State) (ms : List HostMove) : (s.setMoves ms).flags = s.flags := rfl
@[simp] theorem State.setMoves_regTrace (s : State) (ms : List HostMove) : (s.setMoves ms).regTrace = s.regTrace := rfl
@[simp] theorem State.setMoves_wire (s : State) (ms : List HostMove) : (s.setMoves ms).wire = s.wire := rfl
@[simp] theorem State.setMoves_host (s : State) (ms : List HostMove) : (s.setMoves ms).host = { s.host with moves := ms } := rfl
@[simp] theorem State.setMoves_sched (s : State) (ms : List HostMove) : (s.setMoves ms).sched = s.sched := rfl
@[simp] theorem State.setMoves_draws (s : State) (ms : List HostMove) : (s.setMoves ms).draws = s.draws := rfl
@[simp] theorem State.setMoves_par (s : State) (ms : List HostMove) : (s.setMoves ms).par = s.par := rfl

/-! ### observe -/

@[simp] theorem State.observe_seq (s : State) (v : Word) : (s.observe v).seq = s.seq := rfl
@[simp] theorem State.observe_ctl (s : State) (v : Word) : (s.observe v).ctl = s.ctl := rfl
@[simp] theorem State.observe_plat (s : State) (v : Word) : (s.observe v).plat = s.plat := rfl
@[simp] theorem State.observe_dev (s : State) (v : Word) : (s.observe v).dev = s.dev := rfl
@[simp] theorem State.observe_hmem (s : State) (v : Word) : (s.observe v).hmem = s.hmem := rfl
@[simp] theorem State.observe_flags (s : State) (v : Word) : (s.observe v).flags = s.flags := rfl
@[simp] theorem State.observe_regTrace (s : State) (v : Word) : (s.observe v).regTrace = s.regTrace := rfl
@[simp] theorem State.observe_wire (s : State) (v : Word) : (s.observe v).wire = s.wire := rfl
@[simp] theorem State.observe_host (s : State) (v : Word) : (s.observe v).host = { s.host with seen := s.host.seen ++ [v] } := rfl
@[simp] theorem State.observe_sched (s : State) (v : Word) : (s.observe v).sched = s.sched := rfl
@[simp] theorem State.observe_draws (s : State) (v : Word) : (s.observe v).draws = s.draws := rfl
@[simp] theorem State.observe_par (s : State) (v : Word) : (s.observe v).par = s.par := rfl

/-! ### finish -/

@[simp] theorem State.finish_seq (s : State) (v : Word) : (s.finish v).seq = { s.seq with result := v, ust := .done } := rfl
@[simp] theorem State.finish_ctl (s : State) (v : Word) : (s.finish v).ctl = s.ctl := rfl
@[simp] theorem State.finish_plat (s : State) (v : Word) : (s.finish v).plat = s.plat := rfl
@[simp] theorem State.finish_dev (s : State) (v : Word) : (s.finish v).dev = s.dev := rfl
@[simp] theorem State.finish_hmem (s : State) (v : Word) : (s.finish v).hmem = s.hmem := rfl
@[simp] theorem State.finish_flags (s : State) (v : Word) : (s.finish v).flags = s.flags := rfl
@[simp] theorem State.finish_regTrace (s : State) (v : Word) : (s.finish v).regTrace = s.regTrace := rfl
@[simp] theorem State.finish_wire (s : State) (v : Word) : (s.finish v).wire = s.wire := rfl
@[simp] theorem State.finish_host (s : State) (v : Word) : (s.finish v).host = s.host := rfl
@[simp] theorem State.finish_sched (s : State) (v : Word) : (s.finish v).sched = s.sched := rfl
@[simp] theorem State.finish_draws (s : State) (v : Word) : (s.finish v).draws = s.draws := rfl
@[simp] theorem State.finish_par (s : State) (v : Word) : (s.finish v).par = s.par := rfl

/-! ### call -/

@[simp] theorem State.call_seq (s : State) (l : Label) : (s.call l).seq = { s.seq with stk := s.seq.returnRecord :: s.seq.stk, ust := l } := rfl
@[simp] theorem State.call_ctl (s : State) (l : Label) : (s.call l).ctl = s.ctl := rfl
@[simp] theorem State.call_plat (s : State) (l : Label) : (s.call l).plat = s.plat := rfl
@[simp] theorem State.call_dev (s : State) (l : Label) : (s.call l).dev = s.dev := rfl
@[simp] theorem State.call_hmem (s : State) (l : Label) : (s.call l).hmem = s.hmem := rfl
@[simp] theorem State.call_flags (s : State) (l : Label) : (s.call l).flags = s.flags := rfl
@[simp] theorem State.call_regTrace (s : State) (l : Label) : (s.call l).regTrace = s.regTrace := rfl
@[simp] theorem State.call_wire (s : State) (l : Label) : (s.call l).wire = s.wire := rfl
@[simp] theorem State.call_host (s : State) (l : Label) : (s.call l).host = s.host := rfl
@[simp] theorem State.call_sched (s : State) (l : Label) : (s.call l).sched = s.sched := rfl
@[simp] theorem State.call_draws (s : State) (l : Label) : (s.call l).draws = s.draws := rfl
@[simp] theorem State.call_par (s : State) (l : Label) : (s.call l).par = s.par := rfl

/-! ### tick -/

@[simp] theorem State.tick_seq (s : State) : (s.tick).seq = s.seq := rfl
@[simp] theorem State.tick_ctl (s : State) : (s.tick).ctl = s.ctl := rfl
@[simp] theorem State.tick_plat (s : State) : (s.tick).plat = s.plat := rfl
@[simp] theorem State.tick_dev (s : State) : (s.tick).dev = s.dev := rfl
@[simp] theorem State.tick_hmem (s : State) : (s.tick).hmem = s.hmem := rfl
@[simp] theorem State.tick_flags (s : State) : (s.tick).flags = s.flags := rfl
@[simp] theorem State.tick_regTrace (s : State) : (s.tick).regTrace = s.regTrace := rfl
@[simp] theorem State.tick_wire (s : State) : (s.tick).wire = s.wire := rfl
@[simp] theorem State.tick_host (s : State) : (s.tick).host = s.host := rfl
theorem State.tick_sched (s : State) : (s.tick).sched = ⟨s.sched.turns.tail,
    if s.sched.turns.isEmpty then s.sched.mode.after else s.sched.mode,
    s.nextAgent == .seq && s.seq.ust.readsStatus⟩ := rfl
@[simp] theorem State.tick_draws (s : State) : (s.tick).draws = s.draws := rfl
@[simp] theorem State.tick_par (s : State) : (s.tick).par = s.par := rfl

/-! ### refuse -/

@[simp] theorem State.refuse_seq (s : State) (e : Refusal) : (s.refuse e).seq = s.seq := rfl
@[simp] theorem State.refuse_ctl (s : State) (e : Refusal) : (s.refuse e).ctl = s.ctl := rfl
@[simp] theorem State.refuse_plat (s : State) (e : Refusal) : (s.refuse e).plat = s.plat := rfl
@[simp] theorem State.refuse_dev (s : State) (e : Refusal) : (s.refuse e).dev = s.dev := rfl
@[simp] theorem State.refuse_hmem (s : State) (e : Refusal) : (s.refuse e).hmem = s.hmem := rfl
@[simp] theorem State.refuse_flags (s : State) (e : Refusal) : (s.refuse e).flags = s.flags := rfl
@[simp] theorem State.refuse_regTrace (s : State) (e : Refusal) : (s.refuse e).regTrace = s.regTrace := rfl
@[simp] theorem State.refuse_wire (s : State) (e : Refusal) : (s.refuse e).wire = s.wire := rfl
@[simp] theorem State.refuse_host (s : State) (e : Refusal) : (s.refuse e).host = { s.host with refusals := s.host.refusals ++ [e] } := rfl
@[simp] theorem State.refuse_sched (s : State) (e : Refusal) : (s.refuse e).sched = s.sched := rfl
@[simp] theorem State.refuse_draws (s : State) (e : Refusal) : (s.refuse e).draws = s.draws := rfl
@[simp] theorem State.refuse_par (s : State) (e : Refusal) : (s.refuse e).par = s.par := rfl

/-! ### exchange -/

@[simp] theorem exchange_seq (s : State) (b : Byte) : (exchange b s).seq = s.seq := rfl
@[simp] theorem exchange_ctl (s : State) (b : Byte) : (exchange b s).ctl = s.ctl := rfl
@[simp] theorem exchange_plat (s : State) (b : Byte) : (exchange b s).plat = s.plat := rfl
@[simp] theorem exchange_dev (s : State) (b : Byte) : (exchange b s).dev = s.deviceAfter := rfl
@[simp] theorem exchange_hmem (s : State) (b : Byte) : (exchange b s).hmem = s.hmem := rfl
@[simp] theorem exchange_flags (s : State) (b : Byte) : (exchange b s).flags = s.flags := rfl
@[simp] theorem exchange_regTrace (s : State) (b : Byte) : (exchange b s).regTrace = s.regTrace := rfl
@[simp] theorem exchange_wire (s : State) (b : Byte) : (exchange b s).wire = s.wire ++ [.byte b (s.answer b)] := rfl
@[simp] theorem exchange_host (s : State) (b : Byte) : (exchange b s).host = s.host := rfl
@[simp] theorem exchange_sched (s : State) (b : Byte) : (exchange b s).sched = s.sched := rfl
@[simp] theorem exchange_draws (s : State) (b : Byte) : (exchange b s).draws = s.draws := rfl
@[simp] theorem exchange_par (s : State) (b : Byte) : (exchange b s).par = s.par := rfl

/-! ### Setters composed -/

@[simp] theorem State.setSeq_setSeq (s : State) (q q' : Seq) : (s.setSeq q).setSeq q' = s.setSeq q' := rfl
@[simp] theorem State.setSeq_seq_self (s : State) : s.setSeq s.seq = s := rfl
@[simp] theorem State.setCtl_ctl_self (s : State) : s.setCtl s.ctl = s := rfl
@[simp] theorem Result.andThen_next (s : State) (f : State → Result) :
    Result.andThen (.next s) f = f s := rfl
@[simp] theorem Result.andThen_fault (e : Fault) (f : State → Result) :
    Result.andThen (.fault e) f = .fault e := rfl
@[simp] theorem Result.andThen_refused (e : Refusal) (f : State → Result) :
    Result.andThen (.refused e) f = .refused e := rfl

/-- A sequence answers a next state only through a next state of its first part. -/
theorem Result.andThen_eq_next {r : Result} {f : State → Result} {t : State}
    (h : Result.andThen r f = .next t) : ∃ u, r = .next u ∧ f u = .next t := by
  cases r with
  | next u => exact ⟨u, rfl, h⟩
  | fault e => cases h
  | refused e => cases h

end Sys2Proof.Machine
end

