-- ==== Sys2Proof/Laws/Ops.lean ====
section
/-! SUPPORT. What each shared access does, said once: every field of the state after it. -/

namespace Sys2Proof.Machine

/-! ### ctlWriteEn -/

@[simp] theorem ctlWriteEn_seq (s : State) (b : Bool) : (ctlWriteEn b s).seq = s.seq := rfl
@[simp] theorem ctlWriteEn_ctl (s : State) (b : Bool) : (ctlWriteEn b s).ctl = { s.ctl with en := b } := rfl
@[simp] theorem ctlWriteEn_plat (s : State) (b : Bool) : (ctlWriteEn b s).plat = s.plat := rfl
@[simp] theorem ctlWriteEn_dev (s : State) (b : Bool) : (ctlWriteEn b s).dev = s.dev := rfl
@[simp] theorem ctlWriteEn_hmem (s : State) (b : Bool) : (ctlWriteEn b s).hmem = s.hmem := rfl
@[simp] theorem ctlWriteEn_flags (s : State) (b : Bool) : (ctlWriteEn b s).flags = s.flags := rfl
@[simp] theorem ctlWriteEn_regTrace (s : State) (b : Bool) : (ctlWriteEn b s).regTrace = s.regTrace ++ [.wEn b] := rfl
@[simp] theorem ctlWriteEn_wire (s : State) (b : Bool) : (ctlWriteEn b s).wire = s.wire := rfl
@[simp] theorem ctlWriteEn_host (s : State) (b : Bool) : (ctlWriteEn b s).host = s.host := rfl
@[simp] theorem ctlWriteEn_sched (s : State) (b : Bool) : (ctlWriteEn b s).sched = s.sched := rfl
@[simp] theorem ctlWriteEn_draws (s : State) (b : Bool) : (ctlWriteEn b s).draws = s.draws := rfl
@[simp] theorem ctlWriteEn_par (s : State) (b : Bool) : (ctlWriteEn b s).par = s.par := rfl

/-! ### ctlWriteLinear -/

@[simp] theorem ctlWriteLinear_seq (s : State) (b : Bool) : (ctlWriteLinear b s).seq = s.seq := rfl
@[simp] theorem ctlWriteLinear_ctl (s : State) (b : Bool) : (ctlWriteLinear b s).ctl = { s.ctl with linear := b } := rfl
@[simp] theorem ctlWriteLinear_plat (s : State) (b : Bool) : (ctlWriteLinear b s).plat = s.plat := rfl
@[simp] theorem ctlWriteLinear_dev (s : State) (b : Bool) : (ctlWriteLinear b s).dev = s.dev := rfl
@[simp] theorem ctlWriteLinear_hmem (s : State) (b : Bool) : (ctlWriteLinear b s).hmem = s.hmem := rfl
@[simp] theorem ctlWriteLinear_flags (s : State) (b : Bool) : (ctlWriteLinear b s).flags = s.flags := rfl
@[simp] theorem ctlWriteLinear_regTrace (s : State) (b : Bool) : (ctlWriteLinear b s).regTrace = s.regTrace ++ [.wLinear b] := rfl
@[simp] theorem ctlWriteLinear_wire (s : State) (b : Bool) : (ctlWriteLinear b s).wire = s.wire := rfl
@[simp] theorem ctlWriteLinear_host (s : State) (b : Bool) : (ctlWriteLinear b s).host = s.host := rfl
@[simp] theorem ctlWriteLinear_sched (s : State) (b : Bool) : (ctlWriteLinear b s).sched = s.sched := rfl
@[simp] theorem ctlWriteLinear_draws (s : State) (b : Bool) : (ctlWriteLinear b s).draws = s.draws := rfl
@[simp] theorem ctlWriteLinear_par (s : State) (b : Bool) : (ctlWriteLinear b s).par = s.par := rfl

/-! ### ctlReadStatus -/

@[simp] theorem ctlReadStatus_seq (s : State) : (ctlReadStatus s).seq = s.seq := rfl
@[simp] theorem ctlReadStatus_ctl (s : State) : (ctlReadStatus s).ctl = s.ctl := rfl
@[simp] theorem ctlReadStatus_plat (s : State) : (ctlReadStatus s).plat = s.plat := rfl
@[simp] theorem ctlReadStatus_dev (s : State) : (ctlReadStatus s).dev = s.dev := rfl
@[simp] theorem ctlReadStatus_hmem (s : State) : (ctlReadStatus s).hmem = s.hmem := rfl
@[simp] theorem ctlReadStatus_flags (s : State) : (ctlReadStatus s).flags = s.flags := rfl
@[simp] theorem ctlReadStatus_regTrace (s : State) : (ctlReadStatus s).regTrace = s.regTrace ++ [.rStatus s.ctl.rxne s.ctl.txnf (s.ctl.txfull s.par)] := rfl
@[simp] theorem ctlReadStatus_wire (s : State) : (ctlReadStatus s).wire = s.wire := rfl
@[simp] theorem ctlReadStatus_host (s : State) : (ctlReadStatus s).host = s.host := rfl
@[simp] theorem ctlReadStatus_sched (s : State) : (ctlReadStatus s).sched = s.sched := rfl
@[simp] theorem ctlReadStatus_draws (s : State) : (ctlReadStatus s).draws = s.draws := rfl
@[simp] theorem ctlReadStatus_par (s : State) : (ctlReadStatus s).par = s.par := rfl

/-! ### ctlReadConfig -/

@[simp] theorem ctlReadConfig_seq (s : State) : (ctlReadConfig s).seq = s.seq := rfl
@[simp] theorem ctlReadConfig_ctl (s : State) : (ctlReadConfig s).ctl = s.ctl := rfl
@[simp] theorem ctlReadConfig_plat (s : State) : (ctlReadConfig s).plat = s.plat := rfl
@[simp] theorem ctlReadConfig_dev (s : State) : (ctlReadConfig s).dev = s.dev := rfl
@[simp] theorem ctlReadConfig_hmem (s : State) : (ctlReadConfig s).hmem = s.hmem := rfl
@[simp] theorem ctlReadConfig_flags (s : State) : (ctlReadConfig s).flags = s.flags := rfl
@[simp] theorem ctlReadConfig_regTrace (s : State) : (ctlReadConfig s).regTrace = s.regTrace ++ [.rConfig s.ctl.config] := rfl
@[simp] theorem ctlReadConfig_wire (s : State) : (ctlReadConfig s).wire = s.wire := rfl
@[simp] theorem ctlReadConfig_host (s : State) : (ctlReadConfig s).host = s.host := rfl
@[simp] theorem ctlReadConfig_sched (s : State) : (ctlReadConfig s).sched = s.sched := rfl
@[simp] theorem ctlReadConfig_draws (s : State) : (ctlReadConfig s).draws = s.draws := rfl
@[simp] theorem ctlReadConfig_par (s : State) : (ctlReadConfig s).par = s.par := rfl

/-! ### ctlWriteConfig -/

@[simp] theorem ctlWriteConfig_seq (s : State) (c : CtlConfig) (m : Bool) : (ctlWriteConfig c m s).seq = s.seq := rfl
@[simp] theorem ctlWriteConfig_ctl (s : State) (c : CtlConfig) (m : Bool) : (ctlWriteConfig c m s).ctl = { s.ctl with
      config := c
      running := if m then runningAfterStart s.par s.ctl.txq
          (runningAfterCs s.par s.ctl.config.cslvl c.cslvl s.ctl.running)
        else runningAfterCs s.par s.ctl.config.cslvl c.cslvl s.ctl.running } := rfl
@[simp] theorem ctlWriteConfig_plat (s : State) (c : CtlConfig) (m : Bool) : (ctlWriteConfig c m s).plat = s.plat := rfl
@[simp] theorem ctlWriteConfig_dev (s : State) (c : CtlConfig) (m : Bool) : (ctlWriteConfig c m s).dev = s.dev := rfl
@[simp] theorem ctlWriteConfig_hmem (s : State) (c : CtlConfig) (m : Bool) : (ctlWriteConfig c m s).hmem = s.hmem := rfl
@[simp] theorem ctlWriteConfig_flags (s : State) (c : CtlConfig) (m : Bool) : (ctlWriteConfig c m s).flags = s.flags := rfl
@[simp] theorem ctlWriteConfig_regTrace (s : State) (c : CtlConfig) (m : Bool) : (ctlWriteConfig c m s).regTrace = s.regTrace ++ [.wConfig c m] := rfl
@[simp] theorem ctlWriteConfig_wire (s : State) (c : CtlConfig) (m : Bool) : (ctlWriteConfig c m s).wire = s.wire ++ csEvents s.ctl.config.cslvl c.cslvl := rfl
@[simp] theorem ctlWriteConfig_host (s : State) (c : CtlConfig) (m : Bool) : (ctlWriteConfig c m s).host = s.host := rfl
@[simp] theorem ctlWriteConfig_sched (s : State) (c : CtlConfig) (m : Bool) : (ctlWriteConfig c m s).sched = s.sched := rfl
@[simp] theorem ctlWriteConfig_draws (s : State) (c : CtlConfig) (m : Bool) : (ctlWriteConfig c m s).draws = s.draws := rfl
@[simp] theorem ctlWriteConfig_par (s : State) (c : CtlConfig) (m : Bool) : (ctlWriteConfig c m s).par = s.par := rfl

/-! ### platUnlock -/

@[simp] theorem platUnlock_seq (s : State) : (platUnlock s).seq = s.seq := rfl
@[simp] theorem platUnlock_ctl (s : State) : (platUnlock s).ctl = s.ctl := rfl
@[simp] theorem platUnlock_plat (s : State) : (platUnlock s).plat = { s.plat with locked := false } := rfl
@[simp] theorem platUnlock_dev (s : State) : (platUnlock s).dev = s.dev := rfl
@[simp] theorem platUnlock_hmem (s : State) : (platUnlock s).hmem = s.hmem := rfl
@[simp] theorem platUnlock_flags (s : State) : (platUnlock s).flags = s.flags := rfl
@[simp] theorem platUnlock_regTrace (s : State) : (platUnlock s).regTrace = s.regTrace ++ [.wUnlock s.par.unlockKey] := rfl
@[simp] theorem platUnlock_wire (s : State) : (platUnlock s).wire = s.wire := rfl
@[simp] theorem platUnlock_host (s : State) : (platUnlock s).host = s.host := rfl
@[simp] theorem platUnlock_sched (s : State) : (platUnlock s).sched = s.sched := rfl
@[simp] theorem platUnlock_draws (s : State) : (platUnlock s).draws = s.draws := rfl
@[simp] theorem platUnlock_par (s : State) : (platUnlock s).par = s.par := rfl

/-! ### platLock -/

@[simp] theorem platLock_seq (s : State) : (platLock s).seq = s.seq := rfl
@[simp] theorem platLock_ctl (s : State) : (platLock s).ctl = s.ctl := rfl
@[simp] theorem platLock_plat (s : State) : (platLock s).plat = { s.plat with locked := true } := rfl
@[simp] theorem platLock_dev (s : State) : (platLock s).dev = s.dev := rfl
@[simp] theorem platLock_hmem (s : State) : (platLock s).hmem = s.hmem := rfl
@[simp] theorem platLock_flags (s : State) : (platLock s).flags = s.flags := rfl
@[simp] theorem platLock_regTrace (s : State) : (platLock s).regTrace = s.regTrace ++ [.wLock s.par.lockKey] := rfl
@[simp] theorem platLock_wire (s : State) : (platLock s).wire = s.wire := rfl
@[simp] theorem platLock_host (s : State) : (platLock s).host = s.host := rfl
@[simp] theorem platLock_sched (s : State) : (platLock s).sched = s.sched := rfl
@[simp] theorem platLock_draws (s : State) : (platLock s).draws = s.draws := rfl
@[simp] theorem platLock_par (s : State) : (platLock s).par = s.par := rfl

/-! ### resetPulse -/

@[simp] theorem resetPulse_seq (s : State) : (resetPulse s).seq = s.seq := rfl
@[simp] theorem resetPulse_ctl (s : State) : (resetPulse s).ctl = {
      en := false, config := s.par.cfgReset, linear := Config.freeLinear s.draws
      rxThres := Config.freeThreshold s.draws, txThres := Config.freeThreshold (s.draws + 1)
      txq := [], rxq := [], running := false } := rfl
@[simp] theorem resetPulse_plat (s : State) : (resetPulse s).plat = s.plat := rfl
@[simp] theorem resetPulse_dev (s : State) : (resetPulse s).dev = s.dev := rfl
@[simp] theorem resetPulse_hmem (s : State) : (resetPulse s).hmem = s.hmem := rfl
@[simp] theorem resetPulse_flags (s : State) : (resetPulse s).flags = s.flags := rfl
@[simp] theorem resetPulse_regTrace (s : State) : (resetPulse s).regTrace = s.regTrace := rfl
@[simp] theorem resetPulse_wire (s : State) : (resetPulse s).wire = s.wire ++ csEvents s.ctl.config.cslvl s.par.cfgReset.cslvl := rfl
@[simp] theorem resetPulse_host (s : State) : (resetPulse s).host = s.host := rfl
@[simp] theorem resetPulse_sched (s : State) : (resetPulse s).sched = s.sched := rfl
@[simp] theorem resetPulse_draws (s : State) : (resetPulse s).draws = s.draws + 2 := rfl
@[simp] theorem resetPulse_par (s : State) : (resetPulse s).par = s.par := rfl

/-! ### TXD write -/

@[simp] theorem txAppend_seq (s : State) (e : TxEntry) : (txAppend e s).seq = s.seq := by
  unfold txAppend; split <;> rfl
@[simp] theorem txAppend_plat (s : State) (e : TxEntry) : (txAppend e s).plat = s.plat := by
  unfold txAppend; split <;> rfl
@[simp] theorem txAppend_dev (s : State) (e : TxEntry) : (txAppend e s).dev = s.dev := by
  unfold txAppend; split <;> rfl
@[simp] theorem txAppend_hmem (s : State) (e : TxEntry) : (txAppend e s).hmem = s.hmem := by
  unfold txAppend; split <;> rfl
@[simp] theorem txAppend_regTrace (s : State) (e : TxEntry) : (txAppend e s).regTrace = s.regTrace := by
  unfold txAppend; split <;> rfl
@[simp] theorem txAppend_wire (s : State) (e : TxEntry) : (txAppend e s).wire = s.wire := by
  unfold txAppend; split <;> rfl
@[simp] theorem txAppend_host (s : State) (e : TxEntry) : (txAppend e s).host = s.host := by
  unfold txAppend; split <;> rfl
@[simp] theorem txAppend_sched (s : State) (e : TxEntry) : (txAppend e s).sched = s.sched := by
  unfold txAppend; split <;> rfl
@[simp] theorem txAppend_draws (s : State) (e : TxEntry) : (txAppend e s).draws = s.draws := by
  unfold txAppend; split <;> rfl
@[simp] theorem txAppend_par (s : State) (e : TxEntry) : (txAppend e s).par = s.par := by
  unfold txAppend; split <;> rfl

/-- With room in TXQ the entry is appended and no flag changes (Table 20-1). -/
theorem txAppend_of_room {s : State} (e : TxEntry) (h : s.ctl.txq.length < s.par.txDepth) :
    txAppend e s = s.setCtl { s.ctl with txq := s.ctl.txq ++ [e] } := if_pos h

/-- With TXQ full the entry is dropped and `tx_overflow` is set (Table 20-1). -/
theorem txAppend_of_full {s : State} (e : TxEntry) (h : ¬ s.ctl.txq.length < s.par.txDepth) :
    txAppend e s = { s with flags := { s.flags with txOverflow := true } } := if_neg h

@[simp] theorem txdWrite_ctl (s : State) (w : Width) (v : Word) :
    (txdWrite w v s).ctl = (txAppend ⟨w, truncateTo w v⟩ s).ctl := rfl
@[simp] theorem txdWrite_flags (s : State) (w : Width) (v : Word) :
    (txdWrite w v s).flags = (txAppend ⟨w, truncateTo w v⟩ s).flags := rfl
@[simp] theorem txdWrite_seq (s : State) (w : Width) (v : Word) : (txdWrite w v s).seq = s.seq := by
  simp [txdWrite]
@[simp] theorem txdWrite_plat (s : State) (w : Width) (v : Word) : (txdWrite w v s).plat = s.plat := by
  simp [txdWrite]
@[simp] theorem txdWrite_dev (s : State) (w : Width) (v : Word) : (txdWrite w v s).dev = s.dev := by
  simp [txdWrite]
@[simp] theorem txdWrite_hmem (s : State) (w : Width) (v : Word) : (txdWrite w v s).hmem = s.hmem := by
  simp [txdWrite]
@[simp] theorem txdWrite_wire (s : State) (w : Width) (v : Word) : (txdWrite w v s).wire = s.wire := by
  simp [txdWrite]
@[simp] theorem txdWrite_host (s : State) (w : Width) (v : Word) : (txdWrite w v s).host = s.host := by
  simp [txdWrite]
@[simp] theorem txdWrite_sched (s : State) (w : Width) (v : Word) : (txdWrite w v s).sched = s.sched := by
  simp [txdWrite]
@[simp] theorem txdWrite_draws (s : State) (w : Width) (v : Word) : (txdWrite w v s).draws = s.draws := by
  simp [txdWrite]
@[simp] theorem txdWrite_par (s : State) (w : Width) (v : Word) : (txdWrite w v s).par = s.par := by
  simp [txdWrite]
@[simp] theorem txdWrite_regTrace (s : State) (w : Width) (v : Word) :
    (txdWrite w v s).regTrace = s.regTrace ++ [.wTxd w v] := by
  simp [txdWrite]

/-! ### RXD read -/

@[simp] theorem rxTake_seq (s : State) : (rxTake s).seq = s.seq := by
  unfold rxTake; split <;> rfl
@[simp] theorem rxTake_plat (s : State) : (rxTake s).plat = s.plat := by
  unfold rxTake; split <;> rfl
@[simp] theorem rxTake_dev (s : State) : (rxTake s).dev = s.dev := by
  unfold rxTake; split <;> rfl
@[simp] theorem rxTake_hmem (s : State) : (rxTake s).hmem = s.hmem := by
  unfold rxTake; split <;> rfl
@[simp] theorem rxTake_regTrace (s : State) : (rxTake s).regTrace = s.regTrace := by
  unfold rxTake; split <;> rfl
@[simp] theorem rxTake_wire (s : State) : (rxTake s).wire = s.wire := by
  unfold rxTake; split <;> rfl
@[simp] theorem rxTake_host (s : State) : (rxTake s).host = s.host := by
  unfold rxTake; split <;> rfl
@[simp] theorem rxTake_sched (s : State) : (rxTake s).sched = s.sched := by
  unfold rxTake; split <;> rfl
@[simp] theorem rxTake_par (s : State) : (rxTake s).par = s.par := by
  unfold rxTake; split <;> rfl

/-- With an entry in RXQ the head is removed and no flag changes (Table 20-1). -/
theorem rxTake_of_cons {s : State} {w : Word} {q : List Word} (h : s.ctl.rxq = w :: q) :
    rxTake s = s.setCtl { s.ctl with rxq := q } := by
  simp [rxTake, h]

/-- With RXQ empty `rx_underflow` is set and a free value is drawn (Table 20-1). -/
theorem rxTake_of_nil {s : State} (h : s.ctl.rxq = []) :
    rxTake s = { s with flags := { s.flags with rxUnderflow := true }, draws := s.draws + 1 } := by
  simp [rxTake, h]

theorem rxdValue_of_cons {s : State} {w : Word} {q : List Word} (h : s.ctl.rxq = w :: q) :
    rxdValue s = w := by
  simp [rxdValue, h]

@[simp] theorem rxdRead_ctl (s : State) : (rxdRead s).ctl = (rxTake s).ctl := rfl
@[simp] theorem rxdRead_flags (s : State) : (rxdRead s).flags = (rxTake s).flags := rfl
@[simp] theorem rxdRead_draws (s : State) : (rxdRead s).draws = (rxTake s).draws := rfl
@[simp] theorem rxdRead_seq (s : State) : (rxdRead s).seq = s.seq := by
  simp [rxdRead]
@[simp] theorem rxdRead_plat (s : State) : (rxdRead s).plat = s.plat := by
  simp [rxdRead]
@[simp] theorem rxdRead_dev (s : State) : (rxdRead s).dev = s.dev := by
  simp [rxdRead]
@[simp] theorem rxdRead_hmem (s : State) : (rxdRead s).hmem = s.hmem := by
  simp [rxdRead]
@[simp] theorem rxdRead_wire (s : State) : (rxdRead s).wire = s.wire := by
  simp [rxdRead]
@[simp] theorem rxdRead_host (s : State) : (rxdRead s).host = s.host := by
  simp [rxdRead]
@[simp] theorem rxdRead_sched (s : State) : (rxdRead s).sched = s.sched := by
  simp [rxdRead]
@[simp] theorem rxdRead_par (s : State) : (rxdRead s).par = s.par := by
  simp [rxdRead]
@[simp] theorem rxdRead_regTrace (s : State) :
    (rxdRead s).regTrace = s.regTrace ++ [.rRxd (rxdValue s)] := by
  simp [rxdRead]

/-! ### Thresholds, host buffer -/

/-- A legal threshold is stored (R32). -/
theorem ctlWriteRxThres_of_legal {n : Nat} {s : State} (h : 1 ≤ n ∧ n ≤ s.par.rxDepth) :
    ctlWriteRxThres n s = .next ((s.setCtl { s.ctl with rxThres := n }).record (.wRxThres n)) :=
  if_pos h

/-- An illegal one is refused (R32). -/
theorem ctlWriteRxThres_of_illegal {n : Nat} {s : State} (h : ¬(1 ≤ n ∧ n ≤ s.par.rxDepth)) :
    ctlWriteRxThres n s = .refused .badThreshold := if_neg h

theorem ctlWriteTxThres_of_legal {n : Nat} {s : State} (h : 1 ≤ n ∧ n ≤ s.par.txDepth) :
    ctlWriteTxThres n s = .next ((s.setCtl { s.ctl with txThres := n }).record (.wTxThres n)) :=
  if_pos h

theorem ctlWriteTxThres_of_illegal {n : Nat} {s : State} (h : ¬(1 ≤ n ∧ n ≤ s.par.txDepth)) :
    ctlWriteTxThres n s = .refused .badThreshold := if_neg h

/-- What a threshold write can do: store a legal value, or refuse (R32). -/
theorem ctlWriteRxThres_eq_next {n : Nat} {s t : State} (h : ctlWriteRxThres n s = .next t) :
    (1 ≤ n ∧ n ≤ s.par.rxDepth) ∧
      t = (s.setCtl { s.ctl with rxThres := n }).record (.wRxThres n) := by
  unfold ctlWriteRxThres at h
  split at h
  · exact ⟨‹_›, by simpa using h.symm⟩
  · cases h

theorem ctlWriteTxThres_eq_next {n : Nat} {s t : State} (h : ctlWriteTxThres n s = .next t) :
    (1 ≤ n ∧ n ≤ s.par.txDepth) ∧
      t = (s.setCtl { s.ctl with txThres := n }).record (.wTxThres n) := by
  unfold ctlWriteTxThres at h
  split at h
  · exact ⟨‹_›, by simpa using h.symm⟩
  · cases h

/-- What a host-buffer write can do: store the word at an aligned address, or refuse (R71). -/
theorem memWrite_eq_next {a v : Word} {s t : State} (h : memWrite a v s = .next t) :
    aligned a = true ∧ t = { s with hmem := s.hmem.writeWord a v } := by
  unfold memWrite at h
  split at h
  · exact ⟨‹_›, by simpa using h.symm⟩
  · cases h

end Sys2Proof.Machine
end

