-- ==== Sys2Proof/Laws/Control.lean ====
section
/-! SUPPORT. What the movement of `ust` can do: the end of a row, calls and returns change SEQ's
registers and nothing else. -/

namespace Sys2Proof.Machine

/-- A return goes to the place of the topmost record that names a label; there it restores the saved
registers (R180). -/
theorem State.doReturn_eq_next {s t : State} (h : s.doReturn = .next t) :
    ∃ q, Seq.returnVia s.seq.stk s.seq = some q ∧ t = s.setSeq q := by
  unfold State.doReturn at h
  split at h
  · exact ⟨_, by assumption, by simpa using h.symm⟩
  · cases h

/-- Off row X7 a row always ends, and ends in `afterRow`. -/
theorem State.advance_of_ne {s : State} (h : s.seq.ust ≠ .x7) :
    s.advance = .next (s.setSeq s.seq.afterRow) := by
  unfold State.advance
  split
  · contradiction
  · rfl

/-- Row X7 ends in a return (Table 42-1). -/
theorem State.advance_of_x7 {s : State} (h : s.seq.ust = .x7) : s.advance = s.doReturn := by
  simp [State.advance, h]

/-- The end of a row changes SEQ's registers only. -/
theorem State.advance_eq_next {s t : State} (h : s.advance = .next t) : ∃ q, t = s.setSeq q := by
  by_cases hx : s.seq.ust = .x7
  · rw [State.advance_of_x7 hx] at h
    obtain ⟨q, -, rfl⟩ := State.doReturn_eq_next h
    exact ⟨q, rfl⟩
  · rw [State.advance_of_ne hx] at h
    exact ⟨_, by simpa using h.symm⟩

/-- Resuming changes `ust` and, at WW2, `sr` only. -/
@[simp] theorem Seq.resumeAt_ust (q : Seq) (l : Label) : (q.resumeAt l).ust = l := by
  unfold Seq.resumeAt; split <;> rfl

@[simp] theorem Seq.resumeAt_stk (q : Seq) (l : Label) : (q.resumeAt l).stk = q.stk := by
  unfold Seq.resumeAt; split <;> rfl

@[simp] theorem Seq.resumeAt_shadow (q : Seq) (l : Label) : (q.resumeAt l).shadow = q.shadow := by
  unfold Seq.resumeAt; split <;> rfl

@[simp] theorem Seq.restore_shadow (q : Seq) (v : Saved) : (q.restore v).shadow = q.shadow := by
  cases v <;> rfl

@[simp] theorem Seq.restore_stk (q : Seq) (v : Saved) : (q.restore v).stk = q.stk := by
  cases v <;> rfl

/-- A return leaves `shadow` alone. -/
theorem Seq.returnVia_shadow {rs : List Record} {q q' : Seq} (h : Seq.returnVia rs q = some q') :
    q'.shadow = q.shadow := by
  induction rs generalizing q with
  | nil => cases h
  | cons r rs ih =>
    unfold Seq.returnVia at h
    split at h
    · cases h; simp
    · simpa using ih h

/-- The end of a row leaves `shadow` and the stack alone. -/
@[simp] theorem Seq.burst_shadow (q : Seq) (n : Nat) (f : Seq → Seq)
    (hf : ∀ q, (f q).shadow = q.shadow) : (q.burst n f).shadow = q.shadow := by
  unfold Seq.burst; split <;> simp [hf]

@[simp] theorem Seq.burst_stk (q : Seq) (n : Nat) (f : Seq → Seq)
    (hf : ∀ q, (f q).stk = q.stk) : (q.burst n f).stk = q.stk := by
  unfold Seq.burst; split <;> simp [hf]

theorem Seq.afterRow_shadow (q : Seq) : q.afterRow.shadow = q.shadow := by
  unfold Seq.afterRow
  split <;> first
    | rfl
    | (split <;> rfl)
    | exact Seq.burst_shadow _ _ _ fun _ => rfl

theorem Seq.afterRow_stk (q : Seq) : q.afterRow.stk = q.stk := by
  unfold Seq.afterRow
  split <;> first
    | rfl
    | (split <;> rfl)
    | exact Seq.burst_stk _ _ _ fun _ => rfl

end Sys2Proof.Machine
end

