-- ==== Sys2Proof/Laws/Exec.lean ====
section
/-! SUPPORT. One inversion lemma per shared meaning: if it answers `next t`, what `t` is. Later proofs
cite these instead of unfolding the meanings. -/

namespace Sys2Proof.Machine

/-- CS_ON and CS_OFF: `shadow` has a value; its level changes there and in CONFIG, then the row ends. -/
theorem setChipSelect_eq_next {l : CsLevel} {s t : State} (h : setChipSelect l s = .next t) :
    ∃ c, s.seq.shadow = some c ∧
      (ctlWriteConfig { c with cslvl := l } false
        (s.setSeq { s.seq with shadow := some { c with cslvl := l } })).advance = .next t := by
  unfold setChipSelect at h
  split at h
  · cases h
  · exact ⟨_, by assumption, h⟩

/-- START: `shadow` has a value with MSTREN = 1; CONFIG is written with MSTRT = 1, then the row ends. -/
theorem execStart_eq_next {s t : State} (h : execStart s = .next t) :
    ∃ c, s.seq.shadow = some c ∧ c.mstren = true ∧ (ctlWriteConfig c true s).advance = .next t := by
  unfold execStart at h
  split at h
  · cases h
  · split at h
    · exact ⟨_, by assumption, by assumption, h⟩
    · cases h

theorem execSetRxth_eq_next {n : Nat} {s t : State} (h : execSetRxth n s = .next t) :
    (1 ≤ n ∧ n ≤ s.par.rxDepth) ∧
      ((s.setCtl { s.ctl with rxThres := n }).record (.wRxThres n)).advance = .next t := by
  obtain ⟨u, hu, ht⟩ := Result.andThen_eq_next h
  obtain ⟨hn, rfl⟩ := ctlWriteRxThres_eq_next hu
  exact ⟨hn, ht⟩

theorem execSetTxth_eq_next {n : Nat} {s t : State} (h : execSetTxth n s = .next t) :
    (1 ≤ n ∧ n ≤ s.par.txDepth) ∧
      ((s.setCtl { s.ctl with txThres := n }).record (.wTxThres n)).advance = .next t := by
  obtain ⟨u, hu, ht⟩ := Result.andThen_eq_next h
  obtain ⟨hn, rfl⟩ := ctlWriteTxThres_eq_next hu
  exact ⟨hn, ht⟩

/-- POP: RXD is read and the word goes to its destination, then the row ends. -/
theorem execPop_eq_next {dst : PopDest} {s t : State} (h : execPop dst s = .next t) :
    ∃ u, storePopped dst (rxdValue s) (rxdRead s) = .next u ∧ u.advance = .next t :=
  Result.andThen_eq_next h

/-- Where a popped word can go. -/
theorem storePopped_eq_next {dst : PopDest} {v : Word} {s t : State}
    (h : storePopped dst v s = .next t) :
    (dst = .tmp ∧ t = s.setSeq { s.seq with tmp := v }) ∨ (dst = .discard ∧ t = s) ∨
      ∃ i, dst = .hbuf i ∧ aligned (s.hbuf i) = true ∧
        t = { s with hmem := s.hmem.writeWord (s.hbuf i) v } := by
  cases dst with
  | tmp => exact .inl ⟨rfl, by simpa [storePopped] using h.symm⟩
  | discard => exact .inr (.inl ⟨rfl, by simpa [storePopped] using h.symm⟩)
  | hbuf i =>
    obtain ⟨ha, rfl⟩ := memWrite_eq_next h
    exact .inr (.inr ⟨i, rfl, ha, rfl⟩)

/-- POLL: STATUS is read; with the flag 1 the row ends, else SEQ stays (R177). -/
theorem execPoll_eq_next {f : PollFlag} {s t : State} (h : execPoll f s = .next t) :
    (s.ctl.pollFlag f = true ∧ (ctlReadStatus s).advance = .next t) ∨
      (s.ctl.pollFlag f = false ∧ t = ctlReadStatus s) := by
  unfold execPoll at h
  split at h
  · exact .inl ⟨by assumption, h⟩
  · rename_i hf
    exact .inr ⟨by simpa using hf, by simpa using h.symm⟩

/-- DAT4: the word's address is a multiple of 4. -/
theorem execDat4_eq_next {i : Word} {s t : State} (h : execDat4 i s = .next t) :
    aligned (s.hbuf i) = true ∧ pushEntry .w4 (s.hmem.readWord (s.hbuf i)) s = .next t := by
  unfold execDat4 at h
  split at h
  · exact ⟨by assumption, h⟩
  · cases h

/-- A command that is accepted finds SEQ idle and no cause of refusal (R113, R114). -/
theorem acceptUnless_eq_next {r : Option Refusal} {op : BitVec 4} {l : Label} {d : Desc} {s t : State}
    (h : acceptUnless r op l d s = .next t) :
    s.accepting = true ∧ r = none ∧ t = accept op l d s := by
  unfold acceptUnless at h
  split at h
  · split at h
    · cases h
    · exact ⟨by assumption, rfl, by simpa using h.symm⟩
  · cases h

/-- ENG's step: no shift, or one shift of the head of TXQ (R280). -/
theorem engStep_eq_next {s t : State} (h : engStep s = .next t) :
    t = s ∨ ∃ e q, s.engEnabled = true ∧ s.shiftRefusal = none ∧ s.ctl.txq = e :: q ∧
      t = shiftEntry e q s := by
  unfold engStep at h
  split at h
  · split at h
    · cases h
    · exact .inr ⟨_, _, by assumption, by assumption, by assumption, by simpa using h.symm⟩
    · exact .inl (by simpa using h.symm)
  · exact .inl (by simpa using h.symm)

/-- The byte exchanges of an entry change WIRE and DEV only. -/
theorem exchangeAll_eq (bs : List Byte) (s : State) :
    ∃ w d, (exchangeAll bs s).1 = { s with wire := w, dev := d } := by
  induction bs generalizing s with
  | nil => exact ⟨s.wire, s.dev, rfl⟩
  | cons b bs ih =>
    obtain ⟨w, d, h⟩ := ih (exchange b s)
    exact ⟨w, d, h⟩

/-- One byte comes back for each byte sent (R283). -/
theorem exchangeAll_length (bs : List Byte) (s : State) :
    (exchangeAll bs s).2.length = bs.length := by
  induction bs generalizing s with
  | nil => rfl
  | cons b bs ih => simp [exchangeAll, ih]

/-- Each byte that comes back is DEV's answer, given WIRE and DEV as they stand after the exchanges
before it (R280, R283). -/
theorem exchangeAll_answers (bs : List Byte) (s : State) :
    ∃ devs : Nat → Device, devs 0 = s.dev ∧
      let rs := (exchangeAll bs s).2
      let exchanged (k : Nat) : State := { s with
        dev := devs k
        wire := s.wire ++ (List.range k).map fun j => .byte (bs.getD j 0) (rs.getD j 0) }
      (∀ k < bs.length, rs.getD k 0 = (exchanged k).answer (bs.getD k 0) ∧
        devs (k + 1) = (exchanged k).deviceAfter) ∧
      (exchangeAll bs s).1 = exchanged bs.length := by
  induction bs generalizing s with
  | nil => exact ⟨fun _ => s.dev, rfl, fun k h => absurd h (Nat.not_lt_zero k), by simp [exchangeAll]⟩
  | cons b bs ih =>
    obtain ⟨devs, h0, hk, hn⟩ := ih (exchange b s)
    have wire_succ (k : Nat) :
        (exchange b s).wire ++ (List.range k).map (fun j =>
          .byte (bs.getD j 0) ((exchangeAll bs (exchange b s)).2.getD j 0)) =
        s.wire ++ (List.range (k + 1)).map fun j =>
          .byte ((b :: bs).getD j 0) ((exchangeAll (b :: bs) s).2.getD j 0) := by
      simp [exchange, State.emit, exchangeAll, List.range_succ_eq_map, Function.comp_def]
    refine ⟨fun k => k.casesOn s.dev devs, rfl, fun k h => ?_, ?_⟩
    · cases k with
      | zero => simp [exchangeAll, h0, exchange]
      | succ k =>
        have := hk k (Nat.lt_of_succ_lt_succ h)
        simp only [wire_succ] at this
        exact this
    · simp only [wire_succ] at hn
      exact hn

/-- A shift takes the head of TXQ, appends one word to RXQ or sets `rx_overrun`, may clear `running`,
and changes WIRE and DEV (R280 to R282). -/
theorem shiftEntry_eq (e : TxEntry) (q : List TxEntry) (s : State) :
    ∃ w d x, shiftEntry e q s =
      if s.ctl.rxq.length < s.par.rxDepth then
        { s with
          wire := w, dev := d
          ctl := { s.ctl with
            txq := q, running := runningAfterShift s.par q s.ctl.running, rxq := s.ctl.rxq ++ [x] } }
      else
        { s with
          wire := w, dev := d
          ctl := { s.ctl with txq := q, running := runningAfterShift s.par q s.ctl.running }
          flags := { s.flags with rxOverrun := true } } := by
  obtain ⟨w, d, h⟩ := exchangeAll_eq (sentBytes e.width e.value) s
  refine ⟨w, d, rxWord (exchangeAll (sentBytes e.width e.value) s).2, ?_⟩
  unfold shiftEntry deliver
  simp only [h]
  rfl

/-- HOST's own accesses need SEQ idle (R285). -/
theorem hostRead_eq_next {v : Word} {s t : State} (h : hostRead v s = .next t) :
    (s.seq.busy = false ∧ s.seq.ust = .idle) ∧ t = s.observe v := by
  unfold hostRead at h
  split at h
  · exact ⟨by assumption, by simpa using h.symm⟩
  · cases h

theorem hostMemRead_eq_next {a : Word} {s t : State} (h : hostMemRead a s = .next t) :
    (s.seq.busy = false ∧ s.seq.ust = .idle) ∧ aligned a = true ∧
      t = s.observe (s.hmem.readWord a) := by
  obtain ⟨u, hu, ht⟩ := Result.andThen_eq_next h
  obtain ⟨hs, rfl⟩ := hostRead_eq_next hu
  split at ht
  · exact ⟨hs, by assumption, by simpa using ht.symm⟩
  · cases ht

theorem hostMemWrite_eq_next {a v : Word} {s t : State} (h : hostMemWrite a v s = .next t) :
    (s.seq.busy = false ∧ s.seq.ust = .idle) ∧ aligned a = true ∧
      t = { s with hmem := s.hmem.writeWord a v } := by
  unfold hostMemWrite at h
  split at h
  · exact ⟨by assumption, memWrite_eq_next h⟩
  · cases h

/-- HOST's move does what it does, or is refused and leaves the state unchanged. -/
theorem hostMakes_eq_next {m : HostMove} {s t : State} (h : hostMakes m s = .next t) :
    hostMove m s = .next t ∨ ∃ e, hostMove m s = .refused e ∧ t = s.refuse e := by
  unfold hostMakes hostOutcome at h
  split at h
  · exact .inl (by rw [← h]; assumption)
  · cases h
  · exact .inr ⟨_, by assumption, by simpa using h.symm⟩

/-- HOST's turn: nothing pending, or its oldest move, which is used up. -/
theorem hostTurn_eq_next {s t : State} (h : hostTurn s = .next t) :
    (s.host.moves = [] ∧ t = s) ∨
      ∃ m ms, s.host.moves = m :: ms ∧ hostMakes m (s.setMoves ms) = .next t := by
  unfold hostTurn at h
  split at h
  · exact .inl ⟨by assumption, by simpa using h.symm⟩
  · exact .inr ⟨_, _, by assumption, h⟩

/-- Whose turn a step is, and what it runs. -/
theorem step_cases (s : State) :
    (s.nextAgent = .seq ∧ step s = seqTurn s.tick) ∨ (s.nextAgent = .eng ∧ step s = engStep s.tick) ∨
      (s.nextAgent = .host ∧ step s = hostTurn s.tick) := by
  unfold step agentTurn
  cases s.nextAgent <;> simp

end Sys2Proof.Machine
end

