-- ==== Sys2Proof/Laws/Memory.lean ====
section
/-! SUPPORT. The laws of HMEM: every memory operation keeps the canonical form, a read after a write
gives what was written there and leaves every other place alone. -/

namespace Sys2Proof.Machine.Memory

/-- The canonical form from a lower bound holds from every smaller one. -/
theorem wfFrom_mono {lo lo' : Nat} {m : Memory} (hle : lo' ≤ lo) (h : wfFrom lo m = true) :
    wfFrom lo' m = true := by
  cases m with
  | nil => rfl
  | cons c m =>
    simp only [wfFrom, Bool.and_eq_true, decide_eq_true_eq, bne_iff_ne] at h ⊢
    exact ⟨⟨⟨by omega, h.1.1.2⟩, h.1.2⟩, h.2⟩

/-- Below the canonical form's lower bound nothing is listed. -/
theorem readByte_below {lo x : Nat} {m : Memory} (h : wfFrom lo m = true) (hx : x < lo) :
    readByte m x = unlisted := by
  induction m generalizing lo with
  | nil => rfl
  | cons c m ih =>
    simp only [wfFrom, Bool.and_eq_true, decide_eq_true_eq] at h
    rw [readByte, if_neg (by omega)]
    exact ih h.2 (by omega)

theorem wfFrom_cell_append {lo x : Nat} {v : Byte} {m : Memory} (hlo : lo ≤ x) (hx : x < 2 ^ 32)
    (h : wfFrom (x + 1) m = true) : wfFrom lo (cell x v ++ m) = true := by
  unfold cell
  split
  · exact wfFrom_mono (by omega) h
  · simpa [wfFrom, h, hlo] using ⟨by omega, by assumption⟩

theorem readByte_cell_append_same {x : Nat} {v : Byte} {m : Memory} (h : wfFrom (x + 1) m = true) :
    readByte (cell x v ++ m) x = v := by
  unfold cell
  split
  · simpa [*] using readByte_below h (by omega)
  · simp [readByte]

theorem readByte_cell_append_other {x y : Nat} {v : Byte} {m : Memory} (h : y ≠ x) :
    readByte (cell x v ++ m) y = readByte m y := by
  unfold cell
  split
  · rfl
  · simp [readByte, h]

/-- A byte write keeps the canonical form. -/
theorem wfFrom_writeByte {lo x : Nat} {v : Byte} {m : Memory} (hlo : lo ≤ x) (hx : x < 2 ^ 32)
    (h : wfFrom lo m = true) : wfFrom lo (writeByte m x v) = true := by
  induction m generalizing lo with
  | nil => simpa [writeByte] using wfFrom_cell_append (m := []) (v := v) hlo hx rfl
  | cons c m ih =>
    obtain ⟨a, b⟩ := c
    have h' := h
    simp only [wfFrom, Bool.and_eq_true, decide_eq_true_eq, bne_iff_ne] at h
    unfold writeByte
    split
    · refine wfFrom_cell_append hlo hx ?_
      simp only [wfFrom, Bool.and_eq_true, decide_eq_true_eq, bne_iff_ne]
      exact ⟨⟨⟨by omega, h.1.1.2⟩, h.1.2⟩, h.2⟩
    · split
      · subst_vars
        exact wfFrom_cell_append h.1.1.1 hx h.2
      · simp only [wfFrom, Bool.and_eq_true, decide_eq_true_eq, bne_iff_ne]
        exact ⟨h.1, ih (by omega) h.2⟩

/-- Reading the byte just written. -/
theorem readByte_writeByte_same {lo x : Nat} {v : Byte} {m : Memory} (h : wfFrom lo m = true) :
    readByte (writeByte m x v) x = v := by
  induction m generalizing lo with
  | nil => simpa [writeByte] using readByte_cell_append_same (m := []) (x := x) (v := v) rfl
  | cons c m ih =>
    obtain ⟨a, b⟩ := c
    have h' := h
    simp only [wfFrom, Bool.and_eq_true, decide_eq_true_eq] at h
    unfold writeByte
    split
    · refine readByte_cell_append_same ?_
      simp only [wfFrom, Bool.and_eq_true, decide_eq_true_eq]
      exact ⟨⟨⟨by omega, h.1.1.2⟩, h.1.2⟩, h.2⟩
    · split
      · subst_vars
        exact readByte_cell_append_same h.2
      · rw [readByte, if_neg (by assumption)]
        exact ih h.2

/-- Reading another byte. -/
theorem readByte_writeByte_other {x y : Nat} {v : Byte} {m : Memory} (hy : y ≠ x) :
    readByte (writeByte m x v) y = readByte m y := by
  induction m with
  | nil => simpa [writeByte] using readByte_cell_append_other (m := []) (v := v) hy
  | cons c m ih =>
    obtain ⟨a, b⟩ := c
    unfold writeByte
    split
    · exact readByte_cell_append_other hy
    · split
      · subst_vars
        rw [readByte_cell_append_other hy, readByte, if_neg hy]
      · simp only [readByte, ih]

/-- A byte write keeps `wf`. -/
theorem wf_writeByte {x : Nat} {v : Byte} {m : Memory} (hx : x < 2 ^ 32) (h : wf m = true) :
    wf (writeByte m x v) = true := wfFrom_writeByte (by omega) hx h

theorem byteKey_lt (a : Word) (j : Nat) : byteKey a j < 2 ^ 32 := BitVec.isLt _

/-- A word write keeps `wf`. -/
theorem wf_writeWord {a v : Word} {m : Memory} (h : wf m = true) : wf (writeWord m a v) = true :=
  wf_writeByte (byteKey_lt _ _) (wf_writeByte (byteKey_lt _ _) (wf_writeByte (byteKey_lt _ _)
    (wf_writeByte (byteKey_lt _ _) h)))

/-- A word write leaves every byte outside its four alone. -/
theorem readByte_writeWord_other {a v : Word} {x : Nat} {m : Memory}
    (h : ∀ j < 4, x ≠ byteKey a j) : readByte (writeWord m a v) x = readByte m x := by
  simp only [writeWord]
  rw [readByte_writeByte_other (h 3 (by omega)), readByte_writeByte_other (h 2 (by omega)),
    readByte_writeByte_other (h 1 (by omega)), readByte_writeByte_other (h 0 (by omega))]

/-- The four byte addresses of a word are distinct. -/
theorem byteKey_ne {a : Word} {i j : Nat} (hi : i < 4) (hj : j < 4) (h : i ≠ j) :
    byteKey a i ≠ byteKey a j := by
  simp only [byteKey, BitVec.toNat_add, BitVec.toNat_ofNat]
  omega

/-- Reading one of the four bytes just written. -/
theorem readByte_writeWord_same {a v : Word} {j : Nat} {m : Memory} (h : wf m = true) (hj : j < 4) :
    readByte (writeWord m a v) (byteKey a j) = byteOf j v := by
  have h0 := wf_writeByte (v := byteOf 0 v) (byteKey_lt a 0) h
  have h1 := wf_writeByte (v := byteOf 1 v) (byteKey_lt a 1) h0
  have h2 := wf_writeByte (v := byteOf 2 v) (byteKey_lt a 2) h1
  simp only [writeWord]
  match j, hj with
  | 0, _ =>
    rw [readByte_writeByte_other (byteKey_ne (by omega) (by omega) (by omega)),
      readByte_writeByte_other (byteKey_ne (by omega) (by omega) (by omega)),
      readByte_writeByte_other (byteKey_ne (by omega) (by omega) (by omega)),
      readByte_writeByte_same h]
  | 1, _ =>
    rw [readByte_writeByte_other (byteKey_ne (by omega) (by omega) (by omega)),
      readByte_writeByte_other (byteKey_ne (by omega) (by omega) (by omega)),
      readByte_writeByte_same h0]
  | 2, _ =>
    rw [readByte_writeByte_other (byteKey_ne (by omega) (by omega) (by omega)),
      readByte_writeByte_same h1]
  | 3, _ => rw [readByte_writeByte_same h2]

/-- A word is the concatenation of its bytes (R8). -/
theorem bytes_append (v : Word) : byteOf 3 v ++ byteOf 2 v ++ byteOf 1 v ++ byteOf 0 v = v := by
  apply BitVec.eq_of_getLsbD_eq
  intro i hi
  simp only [byteOf, BitVec.getLsbD_append, BitVec.getLsbD_extractLsb']
  by_cases h1 : i < 8
  · simp [h1]
  by_cases h2 : i < 16
  · simp [h1, show i - 8 < 8 by omega, show 8 + (i - 8) = i by omega]
  by_cases h3 : i < 24
  · simp [h1, show ¬ i - 8 < 8 by omega, show i - 8 - 8 < 8 by omega,
      show 16 + (i - 8 - 8) = i by omega]
  · simp [h1, show ¬ i - 8 < 8 by omega, show ¬ i - 8 - 8 < 8 by omega,
      show i - 8 - 8 - 8 < 8 by omega, show 24 + (i - 8 - 8 - 8) = i by omega]

/-- A word read after a word write at the same address gives the word written. -/
theorem readWord_writeWord_same {a v : Word} {m : Memory} (h : wf m = true) :
    readWord (writeWord m a v) a = v := by
  simp only [readWord, readByte_writeWord_same h (show 3 < 4 by omega),
    readByte_writeWord_same h (show 2 < 4 by omega), readByte_writeWord_same h (show 1 < 4 by omega),
    readByte_writeWord_same h (show 0 < 4 by omega)]
  exact bytes_append v

end Sys2Proof.Machine.Memory
end

