-- ==== Sys2Proof/Laws/PerInstr.lean ====
section
/-! SUPPORT. The per-instruction family `CodeForm`: what an instruction's code looks like, one lemma per
constructor of Instr. -/

namespace Sys2Proof.Laws.CodeForm

/-- A code has the form its table of `30_encoding.md` gives it: a descriptor's RSV is 0 (R112), an
entry's value fits its port (R33), an opcode byte is one of Table 30-5. -/
def Form (p : Params) : Code → Prop
  | .descriptor d0 _ _ _ => d0.extractLsb' 4 4 = 0
  | .entry w v => Machine.truncateTo w v = v
  | .opcode b => b ∈ wireOpcodes p

/-- If the instruction has a code, the code has its form. -/
def Statement (i : Instr) : Prop := ∀ p c, encode p i = some c → Form p c

/-- An instruction without a code (R127). -/
theorem of_none {i : Instr} (h : ∀ p, encode p i = none) : Statement i := by
  intro p c hc
  rw [h p] at hc
  cases hc

/-- An instruction whose code has its form. -/
theorem of_some {i : Instr} (f : Params → Code) (h : ∀ p, encode p i = some (f p))
    (hf : ∀ p, Form p (f p)) : Statement i := by
  intro p c hc
  rw [h p] at hc
  cases hc
  exact hf p

/-- RSV of an encoded descriptor is 0 (Table 30-1). -/
theorem encodeD0_rsv (op : BitVec 4) (d : Desc) : (encodeD0 op d).extractLsb' 4 4 = 0 := by
  ext j hj
  simp only [encodeD0, BitVec.getElem_extractLsb', BitVec.getLsbD_append]
  simp [show ¬ 4 + j < 4 by omega, hj]

/-- A command's code. -/
theorem of_command {i : Instr} (op : BitVec 4) (d : Desc)
    (h : ∀ p, encode p i = some (encodeCommand op d)) : Statement i :=
  of_some _ h fun _ => encodeD0_rsv op d

/-- A value of at most 8, 16 or 24 bits passes its port whole (R33). -/
theorem truncateTo_zeroExtend_1 (b : BitVec 8) :
    Machine.truncateTo .w1 (b.zeroExtend 32) = b.zeroExtend 32 := by
  ext j hj
  simp only [Machine.truncateTo, BitVec.truncate_eq_setWidth, BitVec.getElem_setWidth,
    BitVec.getLsbD_extractLsb', BitVec.getLsbD_setWidth]
  by_cases h : j < 8 <;> simp [h, hj]
  exact BitVec.getLsbD_of_ge _ _ (by omega)

theorem truncateTo_zeroExtend_2 (b : BitVec 8) :
    Machine.truncateTo .w2 (b.zeroExtend 32) = b.zeroExtend 32 := by
  ext j hj
  simp only [Machine.truncateTo, BitVec.truncate_eq_setWidth, BitVec.getElem_setWidth,
    BitVec.getLsbD_extractLsb', BitVec.getLsbD_setWidth]
  by_cases h : j < 16 <;> simp [h, hj]
  exact BitVec.getLsbD_of_ge _ _ (by omega)

theorem truncateTo_zeroExtend_3 (b : BitVec 24) :
    Machine.truncateTo .w3 (b.zeroExtend 32) = b.zeroExtend 32 := by
  ext j hj
  simp only [Machine.truncateTo, BitVec.truncate_eq_setWidth, BitVec.getElem_setWidth,
    BitVec.getLsbD_extractLsb', BitVec.getLsbD_setWidth]
  by_cases h : j < 24 <;> simp [h, hj]
  exact BitVec.getLsbD_of_ge _ _ (by omega)

theorem init (d : Desc) : Statement (.init d) := of_command 0 d fun _ => rfl
theorem read (d : Desc) : Statement (.read d) := of_command 1 d fun _ => rfl
theorem write (d : Desc) : Statement (.write d) := of_command 2 d fun _ => rfl
theorem erase (d : Desc) : Statement (.erase d) := of_command 3 d fun _ => rfl
theorem readId (d : Desc) : Statement (.readId d) := of_command 4 d fun _ => rfl
theorem readSr (d : Desc) : Statement (.readSr d) := of_command 5 d fun _ => rfl
theorem readSr2 (d : Desc) : Statement (.readSr2 d) := of_command 6 d fun _ => rfl
theorem wren (d : Desc) : Statement (.wren d) := of_command 7 d fun _ => rfl
theorem wrr (d : Desc) : Statement (.wrr d) := of_command 8 d fun _ => rfl
theorem reserved9 (d : Desc) : Statement (.reserved9 d) := of_command 9 d fun _ => rfl
theorem reserved10 (d : Desc) : Statement (.reserved10 d) := of_command 10 d fun _ => rfl
theorem reserved11 (d : Desc) : Statement (.reserved11 d) := of_command 11 d fun _ => rfl
theorem reserved12 (d : Desc) : Statement (.reserved12 d) := of_command 12 d fun _ => rfl
theorem reserved13 (d : Desc) : Statement (.reserved13 d) := of_command 13 d fun _ => rfl
theorem reserved14 (d : Desc) : Statement (.reserved14 d) := of_command 14 d fun _ => rfl
theorem reserved15 (d : Desc) : Statement (.reserved15 d) := of_command 15 d fun _ => rfl
theorem xfer (w : Width) (v : Word) : Statement (.xfer w v) := of_none fun _ => rfl
theorem waitWip : Statement .waitWip := of_none fun _ => rfl
theorem programPage (pa pb : Word) : Statement (.programPage pa pb) := of_none fun _ => rfl
theorem rxDrain : Statement .rxDrain := of_none fun _ => rfl
theorem csOn : Statement .csOn := of_none fun _ => rfl
theorem csOff : Statement .csOff := of_none fun _ => rfl
theorem start : Statement .start := of_none fun _ => rfl
theorem setRxth (n : Nat) : Statement (.setRxth n) := of_none fun _ => rfl
theorem setTxth (n : Nat) : Statement (.setTxth n) := of_none fun _ => rfl
theorem push (w : Width) (v : Word) : Statement (.push w v) := of_none fun _ => rfl
theorem pop (dst : PopDest) : Statement (.pop dst) := of_none fun _ => rfl
theorem poll (flag : PollFlag) : Statement (.poll flag) := of_none fun _ => rfl
theorem op1 (o : Byte) : Statement (.op1 o) :=
  of_some _ (fun _ => rfl) fun _ => truncateTo_zeroExtend_1 _
theorem op2 (o : Byte) : Statement (.op2 o) :=
  of_some _ (fun _ => rfl) fun _ => truncateTo_zeroExtend_2 _
theorem opr3 (o : Byte) (arg : BitVec 16) : Statement (.opr3 o arg) :=
  of_some _ (fun _ => rfl) fun _ => truncateTo_zeroExtend_3 _
theorem adr3 (addr : Word) : Statement (.adr3 addr) :=
  of_some _ (fun _ => rfl) fun _ => truncateTo_zeroExtend_3 _
theorem adr4 (addr : Word) : Statement (.adr4 addr) := of_some _ (fun _ => rfl) fun _ => rfl
theorem opa4 (o : Byte) (addr : Word) : Statement (.opa4 o addr) := of_some _ (fun _ => rfl) fun _ => rfl
theorem opz4 (o : Byte) : Statement (.opz4 o) := of_some _ (fun _ => rfl) fun _ => rfl
theorem dat4 (i : Word) : Statement (.dat4 i) := of_none fun _ => rfl
theorem fil4 : Statement .fil4 := of_some _ (fun _ => rfl) fun _ => rfl
theorem wireRdid : Statement .wireRdid := of_some _ (fun _ => rfl) fun p => by simp [Form, wireOpcodes]
theorem wireRdsr : Statement .wireRdsr := of_some _ (fun _ => rfl) fun p => by simp [Form, wireOpcodes]
theorem wireRdsr2 : Statement .wireRdsr2 := of_some _ (fun _ => rfl) fun p => by simp [Form, wireOpcodes]
theorem wireWren : Statement .wireWren := of_some _ (fun _ => rfl) fun p => by simp [Form, wireOpcodes]
theorem wireWrr : Statement .wireWrr := of_some _ (fun _ => rfl) fun p => by simp [Form, wireOpcodes]
theorem wireRead : Statement .wireRead := of_some _ (fun _ => rfl) fun p => by simp [Form, wireOpcodes]
theorem wirePp : Statement .wirePp := of_some _ (fun _ => rfl) fun p => by simp [Form, wireOpcodes]
theorem wireSe : Statement .wireSe := of_some _ (fun _ => rfl) fun p => by simp [Form, wireOpcodes]
theorem wireBe : Statement .wireBe := of_some _ (fun _ => rfl) fun p => by simp [Form, wireOpcodes]
theorem wireCe : Statement .wireCe := of_some _ (fun _ => rfl) fun p => by simp [Form, wireOpcodes]

end Sys2Proof.Laws.CodeForm
end

