-- ==== Sys2Proof/Laws/Rows.lean ====
section
/-! SUPPORT. What every row has in common: the end of a row and a return keep the command's registers,
rows of one procedure have one set of callers, and a primitive or transmit entry is an access that
touches `shadow` and `tmp` of SEQ only, followed by the end of the row. -/

namespace Sys2Proof.Machine

/-- The registers that neither the end of a row nor a return writes. -/
structure Seq.Keeps (a b : Seq) : Prop where
  op : b.op = a.op
  fop : b.fop = a.fop
  arg : b.arg = a.arg
  addr : b.addr = a.addr
  ptr : b.ptr = a.ptr
  count : b.count = a.count
  shadow : b.shadow = a.shadow
  manual : b.manual = a.manual
  old : b.old = a.old
  n : b.n = a.n
  tmp : b.tmp = a.tmp
  ret : b.ret = a.ret
  xw : b.xw = a.xw
  xv : b.xv = a.xv
  opc : b.opc = a.opc
  result : b.result = a.result
  busy : b.busy = a.busy

theorem Seq.Keeps.refl (q : Seq) : q.Keeps q := by constructor <;> rfl

theorem Seq.Keeps.trans {a b c : Seq} (h : a.Keeps b) (h' : b.Keeps c) : a.Keeps c := by
  constructor <;> simp [h.1, h.2, h.3, h.4, h.5, h.6, h.7, h.8, h.9, h.10, h.11, h.12, h.13, h.14, h.15,
    h.16, h.17, h'.1, h'.2, h'.3, h'.4, h'.5, h'.6, h'.7, h'.8, h'.9, h'.10, h'.11, h'.12, h'.13, h'.14,
    h'.15, h'.16, h'.17]

theorem Seq.keeps_restore (q : Seq) (v : Saved) : q.Keeps (q.restore v) := by
  cases v <;> constructor <;> rfl

theorem Seq.keeps_resumeAt (q : Seq) (l : Label) : q.Keeps (q.resumeAt l) := by
  unfold Seq.resumeAt
  split <;> constructor <;> rfl

theorem Seq.keeps_returnVia {rs : List Record} {q q' : Seq} (h : Seq.returnVia rs q = some q') :
    q.Keeps q' := by
  induction rs generalizing q with
  | nil => cases h
  | cons r rs ih =>
    unfold Seq.returnVia at h
    split at h
    · cases h
      refine Seq.Keeps.trans (q.keeps_restore r.saved) (Seq.Keeps.trans ?_ (Seq.keeps_resumeAt _ _))
      constructor <;> rfl
    · exact (q.keeps_restore r.saved).trans (ih h)

theorem Seq.keeps_afterRow (q : Seq) : q.Keeps q.afterRow := by
  unfold Seq.afterRow
  split
  all_goals try (constructor <;> rfl)
  all_goals first
    | (split <;> constructor <;> rfl)
    | (unfold Seq.burst; split <;> constructor <;> rfl)

/-- The end of a row changes SEQ's registers only, and none of the kept ones. -/
theorem State.advance_keeps {s t : State} (h : s.advance = .next t) :
    ∃ q, t = s.setSeq q ∧ s.seq.Keeps q := by
  by_cases hx : s.seq.ust = .x7
  · rw [State.advance_of_x7 hx] at h
    obtain ⟨q, hq, rfl⟩ := State.doReturn_eq_next h
    exact ⟨q, rfl, Seq.keeps_returnVia hq⟩
  · rw [State.advance_of_ne hx] at h
    exact ⟨_, by simpa using h.symm, s.seq.keeps_afterRow⟩

/-! ### The stack -/

theorem stackFits_congr {rs : List Record} {l l' : Label} (h : l.callers = l'.callers) :
    stackFits rs l = stackFits rs l' := by
  cases rs <;> simp [stackFits, h]

/-- A return from a called row finds its record, and the rest of the stack fits the row it goes to. -/
theorem stackFits_returnVia {rs : List Record} {q q' : Seq} {l : Label} (hl : l.callers ≠ [])
    (h : stackFits rs l = true) (hr : Seq.returnVia rs q = some q') :
    stackFits q'.stk q'.ust = true ∧ q'.ust ≠ .t1 := by
  induction rs generalizing q l with
  | nil => cases hr
  | cons r rs ih =>
    simp only [stackFits, Bool.and_eq_true] at h
    unfold Seq.returnVia at hr
    split at hr
    · rename_i m hm
      cases hr
      simp [hm, Resume.site] at h ⊢
      refine ⟨h.2, ?_⟩
      rintro rfl
      revert h
      cases l <;> simp [Label.callers]
    · rename_i hm
      simp [hm, Resume.site] at h
      exact ih (l := .pp15) (by simp [Label.callers]) h.2 hr

/-- A finished row stays in its procedure. -/
theorem Seq.afterRow_callers (q : Seq) :
    q.afterRow.ust.callers = q.ust.callers ∧ q.afterRow.ust ≠ .t1 := by
  rcases q with ⟨_, _, _, _, _, _, _, _, ust, _, _, _, _, _, _, _, _, _, _, _, _, _, _, _, _, _, _, _, _⟩
  cases ust <;> dsimp only [Seq.afterRow, Seq.burst, Seq.afterRefill, Seq.afterDrain, Label.succ] <;>
    (repeat' split) <;> exact ⟨rfl, nofun⟩

/-! ### Primitives and transmit entries -/

/-- SEQ's registers are those of `s` but for `shadow` and `tmp`. -/
def AccessOf (u s : State) : Prop :=
  ∃ c w, u.seq = { s.seq with shadow := c, tmp := w }

theorem AccessOf.same {u s : State} (h : u.seq = s.seq) : AccessOf u s :=
  ⟨s.seq.shadow, s.seq.tmp, h⟩

theorem pushEntry_access {w : Width} {v : Word} {s t : State} (h : pushEntry w v s = .next t) :
    ∃ u, AccessOf u s ∧ u.advance = .next t :=
  ⟨txdWrite w v s, .same (by simp), h⟩

/-- Its access leaves SEQ's registers but `shadow` and `tmp` alone; then the row ends, or, in a POLL
whose flag is 0, stays. -/
theorem exec_access {i : Instr} {s t : State} (hn : exec i s = .next t)
    (hi : Instr.isAccess i = true) :
    ∃ u, AccessOf u s ∧
      (u.advance = .next t ∨ (∃ f, i = .poll f ∧ s.ctl.pollFlag f = false) ∧ t = u) := by
  have push {w : Width} {v : Word} (h : pushEntry w v s = .next t) :
      ∃ u, AccessOf u s ∧
        (u.advance = .next t ∨ (∃ f, i = .poll f ∧ s.ctl.pollFlag f = false) ∧ t = u) :=
    let ⟨u, hu, ha⟩ := pushEntry_access h
    ⟨u, hu, .inl ha⟩
  have ends {u : State} (ha : u.advance = .next t) (hu : AccessOf u s) :
      ∃ u, AccessOf u s ∧
        (u.advance = .next t ∨ (∃ f, i = .poll f ∧ s.ctl.pollFlag f = false) ∧ t = u) :=
    ⟨u, hu, .inl ha⟩
  cases i
  case csOn =>
    obtain ⟨c, -, ha⟩ := setChipSelect_eq_next hn
    exact ends ha ⟨_, _, rfl⟩
  case csOff =>
    obtain ⟨c, -, ha⟩ := setChipSelect_eq_next hn
    exact ends ha ⟨_, _, rfl⟩
  case start =>
    obtain ⟨c, -, -, ha⟩ := execStart_eq_next hn
    exact ends ha (.same rfl)
  case setRxth => exact ends (execSetRxth_eq_next hn).2 (.same rfl)
  case setTxth => exact ends (execSetTxth_eq_next hn).2 (.same rfl)
  case pop =>
    obtain ⟨u, hu, ha⟩ := execPop_eq_next hn
    refine ⟨u, ?_, .inl ha⟩
    have hs : (rxdRead s).seq = s.seq := by simp
    obtain ⟨-, rfl⟩ | ⟨-, rfl⟩ | ⟨i, -, -, rfl⟩ := storePopped_eq_next hu
    · exact ⟨s.seq.shadow, rxdValue s, by rw [State.setSeq_seq, hs]⟩
    · exact .same hs
    · exact .same hs
  case poll =>
    obtain ⟨-, h⟩ | ⟨hf, rfl⟩ := execPoll_eq_next hn
    · exact ends h (.same rfl)
    · exact ⟨ctlReadStatus s, .same rfl, .inr ⟨⟨_, rfl, hf⟩, rfl⟩⟩
  case push => exact push hn
  case op1 => exact push hn
  case op2 => exact push hn
  case opr3 => exact push hn
  case adr3 => exact push hn
  case adr4 => exact push hn
  case opa4 => exact push hn
  case opz4 => exact push hn
  case dat4 => exact push (execDat4_eq_next hn).2
  case fil4 => exact push hn
  all_goals cases hi

end Sys2Proof.Machine
end

