-- ==== Sys2Proof/Laws/Runs.lean ====
section
/-! SUPPORT. Every finite beginning of every run (R286) is a run of `step`: no move reads who moves next
or what HOST still means to do, so the turns and HOST's moves can be listed in the first state. -/

namespace Sys2Proof.Machine

/-- The same machine with another schedule and another list of moves of HOST. -/
def State.driven (s : State) (x : Sched) (ms : List HostMove) : State :=
  { s with sched := x, host := { s.host with moves := ms } }

/-- The next state of a result with another schedule and other moves. -/
def Result.driven (r : Result) (x : Sched) (ms : List HostMove) : Result :=
  Result.andThen r fun t => .next (t.driven x ms)

/-- A function of the state does not read the schedule or HOST's moves. -/
def Blind (f : State → Result) : Prop :=
  ∀ s x ms, f (s.driven x ms) = (f s).driven x ms

section
variable (s : State) (x : Sched) (ms : List HostMove)

@[simp] theorem State.driven_seq : (s.driven x ms).seq = s.seq := rfl
@[simp] theorem State.driven_ctl : (s.driven x ms).ctl = s.ctl := rfl
@[simp] theorem State.driven_plat : (s.driven x ms).plat = s.plat := rfl
@[simp] theorem State.driven_dev : (s.driven x ms).dev = s.dev := rfl
@[simp] theorem State.driven_hmem : (s.driven x ms).hmem = s.hmem := rfl
@[simp] theorem State.driven_wire : (s.driven x ms).wire = s.wire := rfl
@[simp] theorem State.driven_draws : (s.driven x ms).draws = s.draws := rfl
@[simp] theorem State.driven_par : (s.driven x ms).par = s.par := rfl
@[simp] theorem State.driven_moves : (s.driven x ms).host.moves = ms := rfl
@[simp] theorem State.driven_sched : (s.driven x ms).sched = x := rfl
@[simp] theorem State.driven_driven (y : Sched) (l : List HostMove) :
    (s.driven x ms).driven y l = s.driven y l := rfl
@[simp] theorem Result.driven_next : Result.driven (.next s) x ms = .next (s.driven x ms) := rfl
@[simp] theorem Result.driven_fault (e : Fault) :
    Result.driven (.fault e) x ms = .fault e := rfl
@[simp] theorem Result.driven_refused (e : Refusal) :
    Result.driven (.refused e) x ms = .refused e := rfl
@[simp] theorem State.driven_setSeq (q : Seq) :
    (s.driven x ms).setSeq q = (s.setSeq q).driven x ms := rfl
@[simp] theorem State.driven_call (l : Label) :
    (s.driven x ms).call l = (s.call l).driven x ms := rfl
@[simp] theorem State.driven_record (a : Access) :
    (s.driven x ms).record a = (s.record a).driven x ms := rfl

end

/-- A choice that does not read the schedule or HOST's moves. -/
theorem Result.driven_ite {p : Prop} [Decidable p] {a b a' b' : Result} {x : Sched}
    {ms : List HostMove} (ha : a = a'.driven x ms) (hb : b = b'.driven x ms) :
    (if p then a else b) = Result.driven (if p then a' else b') x ms := by
  by_cases h : p
  · rw [if_pos h, if_pos h, ha]
  · rw [if_neg h, if_neg h, hb]

theorem Blind.andThen {f g : State → Result} (hf : Blind f) (hg : Blind g) :
    Blind fun s => Result.andThen (f s) g := fun s x ms => by
  show Result.andThen (f (s.driven x ms)) g = Result.driven (Result.andThen (f s) g) x ms
  rw [hf]
  cases f s <;> simp [hg _ x ms]

theorem blind_doReturn : Blind State.doReturn := fun s x ms => by
  unfold State.doReturn
  simp only [State.driven_seq]
  split <;> rfl

theorem blind_advance : Blind State.advance := fun s x ms => by
  by_cases h : s.seq.ust = .x7
  · rw [State.advance_of_x7 h, State.advance_of_x7 (s := s.driven x ms) h, blind_doReturn]
  · rw [State.advance_of_ne h, State.advance_of_ne (s := s.driven x ms) h]; rfl

theorem blind_push (w : Width) (v : Word) : Blind (pushEntry w v) := fun s x ms => by
  have : txdWrite w v (s.driven x ms) = (txdWrite w v s).driven x ms := by
    unfold txdWrite txAppend
    by_cases h : s.ctl.txq.length < s.par.txDepth
    · rw [if_pos h, if_pos (by exact h)]; rfl
    · rw [if_neg h, if_neg (by exact h)]; rfl
  simp only [pushEntry, this, blind_advance _ x ms]

theorem blind_accept (r : State → Option Refusal) (op : BitVec 4) (l : Label) (d : Desc)
    (hr : ∀ s x ms, r (s.driven x ms) = r s) :
    Blind fun s => acceptUnless (r s) op l d s := fun s x ms => by
  have ha : (s.driven x ms).accepting = s.accepting := rfl
  simp only [acceptUnless, hr, ha]
  cases s.accepting with
  | false => rfl
  | true => cases r s <;> rfl

theorem blind_setChipSelect (l : CsLevel) : Blind (setChipSelect l) := fun s x ms => by
  unfold setChipSelect
  simp only [State.driven_seq]
  cases s.seq.shadow with
  | none => rfl
  | some c =>
    exact blind_advance (ctlWriteConfig { c with cslvl := l } false
      (s.setSeq { s.seq with shadow := some { c with cslvl := l } })) x ms

theorem blind_ctlWriteRxThres (n : Nat) : Blind (ctlWriteRxThres n) := fun _ _ _ =>
  Result.driven_ite rfl rfl

theorem blind_ctlWriteTxThres (n : Nat) : Blind (ctlWriteTxThres n) := fun _ _ _ =>
  Result.driven_ite rfl rfl

theorem blind_memWrite (a v : Word) : Blind (memWrite a v) := fun _ _ _ =>
  Result.driven_ite rfl rfl

theorem blind_execPop (dst : PopDest) : Blind (execPop dst) := fun s x ms => by
  have hv : rxdValue (s.driven x ms) = rxdValue s := by
    simp only [rxdValue, State.driven_ctl, State.driven_draws]
  have hr : rxdRead (s.driven x ms) = (rxdRead s).driven x ms := by
    unfold rxdRead rxTake
    rw [hv]
    simp only [State.driven_ctl]
    cases s.ctl.rxq <;> rfl
  have hs : storePopped dst (rxdValue s) ((rxdRead s).driven x ms) =
      (storePopped dst (rxdValue s) (rxdRead s)).driven x ms := by
    cases dst with
    | tmp => rfl
    | discard => rfl
    | hbuf i => exact blind_memWrite _ _ _ x ms
  unfold execPop
  rw [hv, hr, hs]
  cases storePopped dst (rxdValue s) (rxdRead s) <;> simp [blind_advance _ x ms]

/-- No instruction reads the schedule or HOST's moves. -/
theorem blind_exec (i : Instr) : Blind (exec i) := by
  have none (op : BitVec 4) (l : Label) (d : Desc) := blind_accept (fun _ => none) op l d
    fun _ _ _ => rfl
  have transfer (op : BitVec 4) (l : Label) (d : Desc) := blind_accept State.transferRefusal op l d
    fun _ _ _ => rfl
  have buffer (op : BitVec 4) (l : Label) (d : Desc) :=
    blind_accept (fun s => s.transferRefusal <|> Desc.ptrRefusal d) op l d fun _ _ _ => rfl
  have opcode (f : Params → Byte) : Blind fun s => sendOpcode (f s.par) s := fun _ _ _ => rfl
  cases i with
  | init d => exact none 0 .in1 d
  | read d => exact buffer 1 .rd0 d
  | write d => exact buffer 2 .wt1 d
  | erase d => exact transfer 3 .er1 d
  | readId d => exact transfer 4 .t1 d
  | readSr d => exact transfer 5 .t1 d
  | readSr2 d => exact transfer 6 .t1 d
  | wren d => exact transfer 7 .t1 d
  | wrr d => exact transfer 8 .wr1 d
  | reserved9 _ | reserved10 _ | reserved11 _ | reserved12 _ | reserved13 _ | reserved14 _
  | reserved15 _ => exact fun _ _ _ => rfl
  | xfer _ _ | waitWip | programPage _ _ | rxDrain => exact fun _ _ _ => rfl
  | csOn => exact blind_setChipSelect .asserted
  | csOff => exact blind_setChipSelect .deasserted
  | start =>
    intro s x ms
    simp only [exec, execStart, State.driven_seq]
    cases s.seq.shadow with
    | none => rfl
    | some c =>
      exact Result.driven_ite (blind_advance (ctlWriteConfig c true s) x ms) rfl
  | setRxth n => exact (blind_ctlWriteRxThres n).andThen blind_advance
  | setTxth n => exact (blind_ctlWriteTxThres n).andThen blind_advance
  | push w v => exact blind_push w v
  | pop dst => exact blind_execPop dst
  | poll f => exact fun s x ms => Result.driven_ite (blind_advance (ctlReadStatus s) x ms) rfl
  | op1 o => exact blind_push _ _
  | op2 o => exact blind_push _ _
  | opr3 o a => exact blind_push _ _
  | adr3 a => exact blind_push _ _
  | adr4 a => exact blind_push _ _
  | opa4 o a => exact blind_push _ _
  | opz4 o => exact blind_push _ _
  | dat4 i => exact fun s x ms =>
      Result.driven_ite (blind_push .w4 (s.hmem.readWord (s.hbuf i)) s x ms) rfl
  | fil4 => exact fun s x ms => blind_push .w4 s.par.filler s x ms
  | wireRdid => exact opcode Params.opcRdid
  | wireRdsr => exact opcode Params.opcRdsr
  | wireRdsr2 => exact opcode Params.opcRdsr2
  | wireWren => exact opcode Params.opcWren
  | wireWrr => exact opcode Params.opcWrr
  | wireRead => exact opcode Params.opcRead
  | wirePp => exact opcode Params.opcPp
  | wireSe => exact opcode Params.opcSe
  | wireBe => exact opcode Params.opcBe
  | wireCe => exact opcode Params.opcCe

/-- No local step reads the schedule or HOST's moves. -/
theorem blind_localStep : Blind localStep := fun s x ms => by
  have ret (t : State) : (t.driven x ms).doReturn = Result.driven t.doReturn x ms :=
    blind_doReturn t x ms
  have adv (t : State) : (t.driven x ms).advance = Result.driven t.advance x ms :=
    blind_advance t x ms
  unfold localStep
  simp only [State.driven_seq, State.driven_ctl, State.driven_par]
  generalize s.seq.ust = l
  cases l
  case in1 => exact adv (ctlWriteEn false s)
  case in2 => exact adv (platUnlock s)
  case in3 =>
    have : platSetReset (s.driven x ms) = (platSetReset s).driven x ms := by
      show State.record (if s.plat.locked = true then _ else _) _ =
        (State.record (if s.plat.locked = true then _ else _) _).driven x ms
      by_cases h : s.plat.locked = true
      · rw [if_pos h, if_pos h]; rfl
      · rw [if_neg h, if_neg h]; rfl
    simp only [this]; exact adv _
  case in4 =>
    have : platClearReset (s.driven x ms) = (platClearReset s).driven x ms := by
      show State.record (if s.plat.locked = true then _ else _) _ =
        (State.record (if s.plat.locked = true then _ else _) _).driven x ms
      by_cases h : s.plat.locked = true
      · rw [if_pos h, if_pos h]; rfl
      · rw [if_neg h, if_neg h]; rfl
    simp only [this]; exact adv _
  case in5 => exact adv (platLock s)
  case in8 => exact adv (ctlWriteLinear false s)
  case in9 => exact adv (initReadConfig s)
  case in10 => exact adv (initWriteConfig s)
  case we2 | rs2 | id2 => exact ret (s.setSeq _)
  case in6 => exact (blind_ctlWriteRxThres _).andThen blind_advance s x ms
  case in7 => exact (blind_ctlWriteTxThres _).andThen blind_advance s x ms
  case dr1 => exact Result.driven_ite rfl (ret (ctlReadStatus s))
  case ww2 => exact Result.driven_ite (ret s) rfl
  case rd0 => exact Result.driven_ite rfl rfl
  case t1 =>
    show callForOp (s.driven x ms) = Result.driven (callForOp s) x ms
    unfold callForOp
    simp only [State.driven_seq]
    split <;> rfl
  all_goals rfl

theorem blind_seqTurn : Blind seqTurn := fun s x ms => by
  show (match microInstr (s.driven x ms) with
    | some i => exec i (s.driven x ms)
    | none => localStep (s.driven x ms)) = _
  have : microInstr (s.driven x ms) = microInstr s := by
    unfold microInstr
    simp only [State.driven_seq, State.driven_par]
    cases s.seq.ust <;> rfl
  rw [this]
  unfold seqTurn
  cases microInstr s with
  | none => exact blind_localStep s x ms
  | some i => exact blind_exec i s x ms

theorem exchangeAll_driven (bs : List Byte) (s : State) (x : Sched) (ms : List HostMove) :
    exchangeAll bs (s.driven x ms) =
      ((exchangeAll bs s).1.driven x ms, (exchangeAll bs s).2) := by
  induction bs generalizing s with
  | nil => rfl
  | cons b bs ih =>
    have : exchange b (s.driven x ms) = (exchange b s).driven x ms := rfl
    simp only [exchangeAll, this, ih]
    rfl

theorem deliver_driven (w : Word) (s : State) (x : Sched) (ms : List HostMove) :
    deliver w (s.driven x ms) = (deliver w s).driven x ms := by
  unfold deliver
  by_cases h : s.ctl.rxq.length < s.par.rxDepth
  · rw [if_pos h, if_pos (by exact h)]; rfl
  · rw [if_neg h, if_neg (by exact h)]; rfl

theorem blind_engStep : Blind engStep := fun s x ms => by
  refine Result.driven_ite ?_ rfl
  have h : (s.driven x ms).shiftRefusal = s.shiftRefusal := rfl
  simp only [h, State.driven_ctl]
  cases s.shiftRefusal with
  | some r => rfl
  | none =>
    cases s.ctl.txq with
    | nil => rfl
    | cons e q =>
      simp only [shiftEntry, exchangeAll_driven, State.driven_ctl, State.driven_par]
      exact congrArg _ (deliver_driven _ (State.setCtl (exchangeAll _ s).1 _) x ms)

theorem blind_hostMove (m : HostMove) : Blind (hostMove m) := fun s x ms => by
  cases m with
  | command d0 d1 d2 d3 =>
    show hostCommand d0 d1 d2 d3 (s.driven x ms) = Result.driven (hostCommand d0 d1 d2 d3 s) x ms
    unfold hostCommand
    cases decodeCommand d0 d1 d2 d3 with
    | error _ => rfl
    | ok i => exact blind_exec i s x ms
  | readResult => exact Result.driven_ite rfl rfl
  | memRead a =>
    have hr : Blind (hostRead (s.hmem.readWord a)) := fun _ _ _ => Result.driven_ite rfl rfl
    refine hr.andThen (g := fun t => if aligned a then .next t else .refused .misalignedPtr)
      (fun t x ms => ?_) s x ms
    by_cases h : aligned a = true <;> simp [h]
  | memWrite a v => exact Result.driven_ite (blind_memWrite a v s x ms) rfl

theorem blind_hostMakes (m : HostMove) : Blind (hostMakes m) := fun s x ms => by
  unfold hostMakes hostOutcome
  rw [blind_hostMove]
  cases hostMove m s <;> rfl

/-- No move of a run reads the schedule or HOST's pending moves. -/
theorem blind_take (m : Move) : Blind m.take := by
  cases m with
  | seq => exact blind_seqTurn
  | eng => exact blind_engStep
  | host h => exact blind_hostMakes h

/-! ### Runs as runs of `step` -/

/-- The agent that makes a move. -/
def Move.agent : Move → Agent
  | .seq => .seq
  | .eng => .eng
  | .host _ => .host

/-- HOST's own moves among the moves of a run. -/
def hostMoves : List Move → List HostMove
  | [] => []
  | .host h :: l => h :: hostMoves l
  | .seq :: l | .eng :: l => hostMoves l

/-- `s` with the turns and HOST's moves of `l` listed. -/
def State.scheduled (s : State) (l : List Move) (mode : SchedMode) (polled : Bool) : State :=
  s.driven { turns := l.map Move.agent, mode := mode, polled := polled } (hostMoves l)

/-- A step of a scheduled state makes the first listed move. -/
theorem step_scheduled (m : Move) (l : List Move) (s : State) (mode : SchedMode) (polled : Bool) :
    step (s.scheduled (m :: l) mode polled) =
      Result.driven (m.take s)
        { turns := l.map Move.agent, mode := mode,
          polled := m.agent == .seq && s.seq.ust.readsStatus } (hostMoves l) := by
  rw [← blind_take]
  cases m <;> rfl

/-- `n` steps. -/
def steps : Nat → State → Result
  | 0, s => .next s
  | n + 1, s => Result.andThen (step s) (steps n)

/-- The first `n` moves of a sequence. -/
def firstMoves (m : Nat → Move) : Nat → List Move
  | 0 => []
  | n + 1 => m 0 :: firstMoves (fun k => m (k + 1)) n

/-- Every finite beginning of every run, fair or not, is a run of `step` (R286): the run's first state
with its turns and HOST's moves listed comes in `n` steps to the run's `n`-th state. -/
theorem run_is_steps {r : Nat → State} {m : Nat → Move} (h : IsRun r m) (n : Nat)
    (mode : SchedMode) (polled : Bool) :
    ∃ p, steps n ((r 0).scheduled (firstMoves m n) mode polled) =
      .next ((r n).scheduled [] mode p) := by
  induction n generalizing r m polled with
  | zero => exact ⟨polled, rfl⟩
  | succ n ih =>
    obtain ⟨p, hp⟩ := ih (r := fun k => r (k + 1)) (m := fun k => m (k + 1)) (fun k => h (k + 1))
      ((m 0).agent == .seq && (r 0).seq.ust.readsStatus)
    refine ⟨p, ?_⟩
    unfold steps firstMoves
    rw [step_scheduled, h 0]
    exact hp

end Sys2Proof.Machine
end

