-- ==== Sys2Proof/Tests/Slice0.lean ====
section
/-! SUPPORT. Tests on fixed values, their expected results taken from the vectors of
`spec/95_test_vectors.md` or worked out by hand from the rule each names; and after them one witness for
the hypotheses of each statement that has some. -/

open Sys2Proof Sys2Proof.Machine

namespace Sys2Proof.Tests

/-! ### Fixtures -/

/-- A concrete machine: the defaults of Table 00-2, and a value for each parameter it leaves open. -/
def par : Params :=
  { Config.defaults with
    cpha := false, cpol := false, baudDiv := 2, unlockKey := 0x55, lockKey := 0xAA, rstMask := 4 }

/-- The same with the other empty policy. -/
def parContinue : Params := { par with emptyPolicy := .continue }

/-- The same with the other full policy. -/
def parStall : Params := { par with rxFullPolicy := .stall }

/-- After power-on. -/
def fresh : State := { State.reset with par := par }

/-- CONFIG after `init(true)`, Table 40-1 column 1. -/
def cfg : CtlConfig := {
  ifmode := .flashIo, endian := .little, holdb := false, mstren := true, mancs := true
  cslvl := .deasserted, baudsel := false, fwidth := .w32, baud := 2, cpha := false, cpol := false
  master := true, rsvd := 0 }

/-- CONFIG inside a frame. -/
def cfgOn : CtlConfig := { cfg with cslvl := .asserted }

/-- Idle after `init(true)` (R156). -/
def ready : State :=
  { fresh with
    seq := { fresh.seq with shadow := some cfg, manual := true }
    ctl := { fresh.ctl with en := true, config := cfg } }

/-- A command runs and SEQ stands at the row `l`. -/
def row (l : Label) (s : State) : State := { s with seq := { s.seq with ust := l, busy := true } }

/-- Inside a frame. -/
def framed (s : State) : State :=
  { s with
    seq := { s.seq with shadow := some cfgOn }
    ctl := { s.ctl with config := cfgOn }
    wire := s.wire ++ [.cs1] }

/-- With these words in RXQ. -/
def rx (ws : List Word) (s : State) : State := { s with ctl := { s.ctl with rxq := ws } }

/-- With these entries in TXQ. -/
def tx (es : List TxEntry) (s : State) : State := { s with ctl := { s.ctl with txq := es } }

/-- With these parameters. -/
def under (p : Params) (s : State) : State := { s with par := p }

/-- SEQ's registers changed. -/
def regs (f : Seq → Seq) (s : State) : State := { s with seq := f s.seq }

/-- A transaction is running with the device PatDev (V20-1). -/
def running (script : List Byte) (s : State) : State :=
  { s with ctl := { s.ctl with running := true }, dev := .patDev script }

/-- The result is a next state with the property. -/
def after (r : Host.Outcome State Fault Refusal) (p : State → Bool) : Bool :=
  match r with
  | .next s => p s
  | .fault _ => false
  | .refused _ => false

/-- The result is that refusal. -/
def isRefused (r : Host.Outcome State Fault Refusal) (e : Refusal) : Bool :=
  match r with
  | .next _ => false
  | .fault _ => false
  | .refused e' => e' = e

/-- A descriptor with nothing in it. -/
def noFields : Desc := { fop := 0, arg := 0, addr := 0, ptr := 0, count := 0 }

/-! ### Well-formedness: an ill-formed term for each check -/

theorem test_wellFormed_rxth :
    (Instr.setRxth 0).wellFormed par = false ∧ (Instr.setRxth 64).wellFormed par = false ∧
      (Instr.setRxth 1).wellFormed par = true ∧ (Instr.setRxth 63).wellFormed par = true := by decide

theorem test_wellFormed_txth :
    (Instr.setTxth 0).wellFormed par = false ∧ (Instr.setTxth 64).wellFormed par = false ∧
      (Instr.setTxth 1).wellFormed par = true ∧ (Instr.setTxth 63).wellFormed par = true := by decide

/-! ### Decoding: words written out from Tables 30-1, 30-2, 30-5 (V30-3) -/

theorem test_decode_init_read_write :
    decode par (.descriptor 0x00010000 0 0 0) = .ok (.init { noFields with arg := 1 }) ∧
    decode par (.descriptor 0x00000001 0x100 0x1000 3) =
      .ok (.read { noFields with addr := 0x100, ptr := 0x1000, count := 3 }) ∧
    decode par (.descriptor 0x00000002 0x10000 0x2000 0x40) =
      .ok (.write { noFields with addr := 0x10000, ptr := 0x2000, count := 64 }) := by decide

theorem test_decode_frames :
    decode par (.descriptor 0x0000D803 0x12345 0 0) =
      .ok (.erase { noFields with fop := 0xD8, addr := 0x12345 }) ∧
    decode par (.descriptor 4 0 0 0) = .ok (.readId noFields) ∧
    decode par (.descriptor 5 0 0 0) = .ok (.readSr noFields) ∧
    decode par (.descriptor 6 0 0 0) = .ok (.readSr2 noFields) ∧
    decode par (.descriptor 7 0 0 0) = .ok (.wren noFields) ∧
    decode par (.descriptor 0x02800008 0 0 0) = .ok (.wrr { noFields with arg := 0x280 }) := by decide

/-- V30-3: ignored fields may hold anything; RSV may not. -/
theorem test_decode_ignored_and_reserved_bits :
    decode par (.descriptor 0xFFFFFF07 0 0 0) = .ok (.wren { noFields with fop := 0xFF, arg := 0xFFFF }) ∧
    decode par (.descriptor 0x00000017 0 0 0) = .error .reservedBits ∧
    decode par (.descriptor 0x00000080 0 0 0) = .error .reservedBits := by decide

theorem test_decode_reserved_operations :
    decode par (.descriptor 9 0 0 0) = .ok (.reserved9 noFields) ∧
    decode par (.descriptor 0xA 0 0 0) = .ok (.reserved10 noFields) ∧
    decode par (.descriptor 0xB 0 0 0) = .ok (.reserved11 noFields) ∧
    decode par (.descriptor 0xC 0 0 0) = .ok (.reserved12 noFields) ∧
    decode par (.descriptor 0xD 0 0 0) = .ok (.reserved13 noFields) ∧
    decode par (.descriptor 0xE 0 0 0) = .ok (.reserved14 noFields) ∧
    decode par (.descriptor 0xF 0 0 0) = .ok (.reserved15 noFields) := by decide

/-- Table 30-5, with the default parameters. -/
theorem test_decode_wire_opcodes :
    decode par (.opcode 0x9F) = .ok .wireRdid ∧ decode par (.opcode 0x05) = .ok .wireRdsr ∧
    decode par (.opcode 0x35) = .ok .wireRdsr2 ∧ decode par (.opcode 0x06) = .ok .wireWren ∧
    decode par (.opcode 0x01) = .ok .wireWrr ∧ decode par (.opcode 0x03) = .ok .wireRead ∧
    decode par (.opcode 0x02) = .ok .wirePp ∧ decode par (.opcode 0x20) = .ok .wireSe ∧
    decode par (.opcode 0xD8) = .ok .wireBe ∧ decode par (.opcode 0xC7) = .ok .wireCe ∧
    decode par (.opcode 0x99) = .error .notAnOpcode := by decide

/-- Table 30-5's other opcodes: named parameters without a row of the opcode table; one that is also the
value of an opcode parameter is that opcode. -/
theorem test_decode_opcodes_without_a_row :
    decode par (.opcode 0x90) = .error (.hasNoRow .rems) ∧
    decode par (.opcode 0x07) = .error (.hasNoRow .rdsr2Alt) ∧
    decode par (.opcode 0x0B) = .error (.hasNoRow .fastRead) ∧
    decode par (.opcode 0x3B) = .error (.hasNoRow .dor) ∧
    decode par (.opcode 0x6B) = .error (.hasNoRow .qor) ∧
    decode par (.opcode 0x32) = .error (.hasNoRow .qpp) ∧
    decode par (.opcode 0x60) = .error (.hasNoRow .ceAlt) ∧
    decode { par with opcRdsr2 := 0x07 } (.opcode 0x07) = .ok .wireRdsr2 ∧
    decode { par with opcCe := 0x60 } (.opcode 0x60) = .ok .wireCe := by decide

/-- The transmit-entry formats, with the words of V30-1, V30-2 and V42-6 (Table 30-4). -/
theorem test_encode_entries :
    encode par (.op1 0x06) = some (.entry .w1 0x06) ∧ encode par (.op2 0x05) = some (.entry .w2 0x0005) ∧
    encode par (.opr3 0x01 0x0280) = some (.entry .w3 0x028001) ∧
    encode par (.adr3 0x12345678) = some (.entry .w3 0x785634) ∧
    encode par (.adr4 0x00ABCDEF) = some (.entry .w4 0x00EFCDAB) ∧
    encode par (.opa4 0xD8 0x012345) = some (.entry .w4 0x452301D8) ∧
    encode par (.opz4 0x9F) = some (.entry .w4 0x9F) ∧ encode par .fil4 = some (.entry .w4 0) := by decide

/-- Rows of the opcode table as the host numbers them: D0 alone, the four words, an opcode byte. -/
theorem test_decodeTableWord :
    decodeTableWord 128 0x00000003000010000000010000000001 =
      some (.read { noFields with addr := 0x100, ptr := 0x1000, count := 3 }) ∧
    decodeTableWord 8 0x9F = some .wireRdid ∧ decodeTableWord 8 7 = some (.wren noFields) ∧
    decodeTableWord 32 0x17 = none := by decide

/-- A placed descriptor runs as the first instruction after reset, and so does a placed opcode, one
without a row among them; a refused descriptor leaves SEQ idle and HOST goes on. -/
theorem test_withFetchWord :
    after (step (State.reset.withFetchWord 8 0)) (·.seq.ust = .in1) = true ∧
    after (step (State.reset.withFetchWord 8 4)) (·.seq.ust = .t1) = true ∧
    after (step (State.reset.withFetchWord 8 9)) (fun t => t.seq.ust = .idle ∧
      t.host.refusals = [.reservedOp]) = true ∧
    after (step (State.reset.withFetchWord 8 0x90)) (·.wire.length = 1) = true ∧
    after (step (State.reset.withFetchWord 8 0xD8)) (·.wire.length = 1) = true := by decide

/-- P5 goes on after a refusal: the state stays and HOST's next move is made (V30-4). -/
theorem test_host_goes_on_after_a_refusal :
    hostTurn { ready with host := { moves := [.command 9 0 0 0, .readResult], seen := [], refusals := [] } } =
      .next { ready with host := { moves := [.readResult], seen := [], refusals := [.reservedOp] } } := rfl

/-- An unfair schedule: SEQ alone moves, so a POLL of an empty RXQ stays at its row for ever (R286). -/
theorem test_endless_poll :
    let s := { row .x5 ready with sched := { turns := [], mode := .cycle [.seq], polled := true } }
    ∃ t, step s = .next t ∧ t.seq = s.seq ∧ t.ctl = s.ctl ∧ t.sched = s.sched :=
  ⟨_, rfl, rfl, rfl, rfl⟩

/-- Under a free schedule nothing is known of who moves. -/
theorem test_free_schedule (i : Nat) :
    let s := { ready with sched := { turns := [], mode := .free i, polled := false } }
    s.nextAgent = Config.freeTurn i ∧ s.tick.sched.mode = .free (i + 1) := ⟨rfl, rfl⟩

/-! ### Byte order and responses -/

/-- V30-1. -/
theorem test_rev24 :
    rev24 0x100 = 0x000100 ∧ rev24 0x10000 = 0x000001 ∧ rev24 1 = 0x010000 ∧
      rev24 0x12345678 = 0x785634 ∧ rev24 0xFF000001 = 0x010000 := by decide

/-- V20-1: what is sent and what word comes back. -/
theorem test_bytes_on_the_wire :
    sentBytes .w4 0x452301D8 = [0xD8, 0x01, 0x23, 0x45] ∧ sentBytes .w3 0x028001 = [0x01, 0x80, 0x02] ∧
    rxWord [0xFF] = 0xFF000000 ∧ rxWord [0xFF, 0x03] = 0x03FF0000 ∧
    rxWord [0xFF, 0xFF, 0xFF] = 0xFFFFFF00 ∧ rxWord [0, 1, 2, 3] = 0x03020100 := by decide

/-- R120 and V43-11. -/
theorem test_chunks :
    chunksOf 0 = 0 ∧ chunksOf 1 = 1 ∧ chunksOf 64 = 1 ∧ chunksOf 65 = 2 ∧ chunksOf 300 = 5 ∧
      chunksOf 0xFFFFFFFF = 67108864 := by decide

/-! ### Commands (V30-3, V30-4) -/

theorem test_first_steps :
    after (exec (.init noFields) fresh) (fun t => t.seq.ust = .in1 ∧ t.seq.busy) = true ∧
    after (exec (.read noFields) ready) (·.seq.ust = .rd0) = true ∧
    after (exec (.write noFields) ready) (·.seq.ust = .wt1) = true ∧
    after (exec (.erase { noFields with fop := 0xD8 }) ready)
      (fun t => t.seq.ust = .er1 ∧ t.seq.fop = 0xD8) = true ∧
    after (exec (.wrr { noFields with arg := 0x280 }) ready)
      (fun t => t.seq.ust = .wr1 ∧ t.seq.arg = 0x280) = true := by decide

theorem test_first_steps_of_T :
    after (exec (.readId noFields) ready) (fun t => t.seq.ust = .t1 ∧ t.seq.op = 4) = true ∧
    after (exec (.readSr noFields) ready) (fun t => t.seq.ust = .t1 ∧ t.seq.op = 5) = true ∧
    after (exec (.readSr2 noFields) ready) (fun t => t.seq.ust = .t1 ∧ t.seq.op = 6) = true ∧
    after (exec (.wren noFields) ready) (fun t => t.seq.ust = .t1 ∧ t.seq.op = 7) = true := by decide

theorem test_refusals :
    isRefused (hostCommand 4 0 0 0 fresh) .notInitialised = true ∧
    isRefused (hostCommand 5 0 0 0 (regs ({ · with manual := false }) ready)) .autoMode = true ∧
    isRefused (hostCommand 0x17 0 0 0 ready) .reservedOp = true ∧
    isRefused (hostCommand 1 0 0x1002 1 ready) .misalignedPtr = true ∧
    isRefused (hostCommand 2 0 0x2001 0x40 ready) .misalignedPtr = true ∧
    isRefused (hostCommand 5 0 0 0 (row .x5 ready)) .busy = true ∧
    isRefused (hostCommand 9 0 0 0 fresh) .reservedOp = true ∧
    isRefused (hostCommand 9 0 0 0 (row .x5 ready)) .reservedOp = true := by decide

theorem test_zero_count_is_accepted :
    after (hostCommand 1 0 0x1002 0 ready) (·.seq.ust = .rd0) = true ∧
    after (hostCommand 2 0 0x2003 0 ready) (·.seq.ust = .wt1) = true := by decide

/-! ### Primitives (V41-1 to V41-14, V20-2, V20-3) -/

theorem test_csOn :
    after (exec .csOn (row .x2 ready)) (fun t =>
      t.ctl.config = cfgOn ∧ t.seq.shadow = some cfgOn ∧ t.wire = [.cs1] ∧
        t.regTrace = [.wConfig cfgOn false] ∧ t.seq.ust = .x3) = true ∧
    after (exec .csOn (row .x2 (framed ready))) (fun t => t.wire = [.cs1]) = true := by decide

theorem test_csOff :
    after (exec .csOff (row .x6 (running [] (framed ready)))) (fun t =>
      t.ctl.config = cfg ∧ t.seq.shadow = some cfg ∧ t.wire = [.cs1, .cs0] ∧ t.ctl.running) = true ∧
    after (exec .csOff (row .x6 (under parContinue (running [] (framed ready)))))
      (fun t => !t.ctl.running) = true := by decide

theorem test_start :
    after (exec .start (row .x4 (framed (tx [⟨.w1, 6⟩] ready)))) (fun t =>
      t.ctl.running ∧ t.ctl.config = cfgOn ∧ t.regTrace = [.wConfig cfgOn true]) = true ∧
    after (exec .start (row .x4 (framed ready))) (fun t => !t.ctl.running) = true ∧
    after (exec .start (row .x4 (under parContinue (framed ready)))) (fun t => t.ctl.running) = true := by
  decide

theorem test_setRxth :
    after (exec (.setRxth 32) ready) (fun t => t.ctl.rxThres = 32 ∧ t.regTrace = [.wRxThres 32]) = true ∧
    isRefused (exec (.setRxth 0) ready) .badThreshold = true ∧
    isRefused (exec (.setRxth 64) ready) .badThreshold = true := by decide

theorem test_setTxth :
    after (exec (.setTxth 16) ready) (fun t => t.ctl.txThres = 16 ∧ t.regTrace = [.wTxThres 16]) = true ∧
    isRefused (exec (.setTxth 64) ready) .badThreshold = true := by decide

theorem test_push :
    after (exec (.push .w2 0x0005) ready)
      (fun t => t.ctl.txq = [⟨.w2, 5⟩] ∧ t.regTrace = [.wTxd .w2 5]) = true ∧
    after (exec (.push .w3 0xFFEFCDAB) ready)
      (fun t => t.ctl.txq = [⟨.w3, 0xEFCDAB⟩] ∧ t.regTrace = [.wTxd .w3 0xFFEFCDAB]) = true := by decide

/-- V20-2: the entry is dropped. -/
theorem test_push_when_full :
    after (exec (.op1 6) (tx (List.replicate 63 ⟨.w1, 0⟩) ready))
      (fun t => t.ctl.txq.length = 63 ∧ t.flags.txOverflow) = true := by decide

theorem test_pop :
    after (exec (.pop .tmp) (row .x7 (regs ({ · with stk := [⟨.label .rs2, .none⟩] })
        (rx [0x03FF0000, 7] ready))))
      (fun t => t.ctl.rxq = [7] ∧ t.seq.tmp = 0x03FF0000 ∧ t.seq.ust = .rs2 ∧
        t.regTrace = [.rRxd 0x03FF0000]) = true ∧
    after (exec (.pop .discard) ready) (fun t => t.flags.rxUnderflow ∧ t.ctl.rxq = []) = true := by decide

/-- R260: a popped word lies at `ptr + 4*i`, its first received byte lowest (V45-13). -/
theorem test_pop_to_the_buffer :
    after (exec (.pop (.hbuf 2)) (rx [0x03020100] (regs ({ · with ptr := 0x1000 }) ready)))
      (fun t => t.hmem = [(0x1009, 1), (0x100A, 2), (0x100B, 3)]) = true := by decide

theorem test_poll :
    after (exec (.poll .rxne) (row .x5 ready))
      (fun t => t.seq.ust = .x5 ∧ t.regTrace = [.rStatus false true false]) = true ∧
    after (exec (.poll .rxne) (row .x5 (rx [7] ready)))
      (fun t => t.seq.ust = .x6 ∧ t.regTrace = [.rStatus true true false]) = true := by decide

/-! ### Procedures (R180, Table 41-1) -/

theorem test_xfer :
    after (exec (.xfer .w2 5) (row .rs1 ready)) (fun t =>
      t.seq.ust = .x1 ∧ t.seq.stk = [⟨.label .rs2, .none⟩] ∧ t.seq.xw = .w2 ∧ t.seq.xv = 5) = true := by
  decide

theorem test_waitWip :
    after (exec .waitWip (row .er3 ready))
      (fun t => t.seq.ust = .ww1 ∧ t.seq.stk = [⟨.label .er4, .none⟩]) = true := by decide

theorem test_programPage :
    after (exec (.programPage 0x100 64) (regs ({ · with ust := .wt2, pageI := 1, chunks := 2 }) ready))
      (fun t => t.seq.ust = .pp1 ∧ t.seq.pa = 0x100 ∧ t.seq.pb = 64 ∧
        t.seq.stk = [⟨.label .wt3, .write 1 2⟩]) = true := by decide

theorem test_rxDrain :
    after (exec .rxDrain (row .pp14 ready)) (fun t => t.seq.ust = .dr1 ∧ t.regTrace = []) = true ∧
    after (seqTurn (row .dr1 (rx [7] ready))) (fun t => t.seq.ust = .dr2) = true ∧
    after (seqTurn (row .dr1 (regs ({ · with stk := [⟨.label .pp15, .none⟩] }) ready)))
      (fun t => t.seq.ust = .pp15) = true := by decide

/-! ### Transmit entries (V30-2, V42-6, Table 30-4) -/

theorem test_short_entries :
    after (exec (.op1 6) ready) (·.ctl.txq = [⟨.w1, 6⟩]) = true ∧
    after (exec (.op2 5) ready) (·.ctl.txq = [⟨.w2, 5⟩]) = true ∧
    after (exec (.opr3 1 0x280) ready) (·.ctl.txq = [⟨.w3, 0x028001⟩]) = true ∧
    after (exec (.adr3 0xFF000001) ready) (·.ctl.txq = [⟨.w3, 0x010000⟩]) = true := by decide

theorem test_long_entries :
    after (exec (.adr4 0x00012345) ready) (·.ctl.txq = [⟨.w4, 0x452301⟩]) = true ∧
    after (exec (.opa4 0x20 0xFFABCDEF) ready) (·.ctl.txq = [⟨.w4, 0xEFCDAB20⟩]) = true ∧
    after (exec (.opz4 0x9F) ready) (·.ctl.txq = [⟨.w4, 0x9F⟩]) = true ∧
    after (exec .fil4 ready) (·.ctl.txq = [⟨.w4, 0⟩]) = true := by decide

/-- HBuf[1] is the word at `ptr + 4`, its lowest-addressed byte the low one. -/
theorem test_dat4 :
    after (exec (.dat4 1) { regs ({ · with ptr := 0x2000 }) ready with
        hmem := [(0x2004, 1), (0x2007, 0xA0)] })
      (·.ctl.txq = [⟨.w4, 0xA0000001⟩]) = true := by decide

/-! ### ENG and DEV (V20-1, V20-2, V20-3) -/

/-- One shift of `e`, in a frame of its own. -/
def shift (e : TxEntry) (script : List Byte) : Host.Outcome State Fault Refusal :=
  engStep (running script (framed (tx [e] ready)))

theorem test_shift :
    after (shift ⟨.w1, 6⟩ []) (fun t => t.ctl.rxq = [0xFF000000] ∧ t.wire = [.cs1, .byte 6 0xFF]) = true ∧
    after (shift ⟨.w2, 5⟩ [3]) (·.ctl.rxq = [0x03FF0000]) = true ∧
    after (shift ⟨.w3, 0x028001⟩ []) (·.ctl.rxq = [0xFFFFFF00]) = true ∧
    after (shift ⟨.w4, 0x9F⟩ []) (·.ctl.rxq = [0x182001FF]) = true := by decide

theorem test_shift_policies :
    after (shift ⟨.w1, 6⟩ []) (fun t => !t.ctl.running) = true ∧
    after (engStep (under parContinue (running [] (framed (tx [⟨.w1, 6⟩] ready)))))
      (fun t => t.ctl.running) = true ∧
    after (engStep (rx (List.replicate 63 0) (running [] (framed (tx [⟨.w1, 6⟩] ready)))))
      (fun t => t.flags.rxOverrun ∧ t.ctl.rxq.length = 63 ∧ t.ctl.txq = []) = true ∧
    after (engStep (under parStall (rx (List.replicate 63 0) (running [] (framed (tx [⟨.w1, 6⟩] ready))))))
      (fun t => !t.flags.rxOverrun ∧ t.ctl.txq.length = 1) = true := by decide

/-- Each opcode alone: its byte goes out (Table 30-5), PatDev answers the first byte of a frame FF. -/
theorem test_wire_opcodes :
    [(Instr.wireRdid, 0x9F), (.wireRdsr, 0x05), (.wireRdsr2, 0x35), (.wireWren, 0x06), (.wireWrr, 0x01),
      (.wireRead, 0x03), (.wirePp, 0x02), (.wireSe, 0x20), (.wireBe, 0xD8), (.wireCe, 0xC7)].all
      (fun p => after (exec p.1 (running [] (framed ready)))
        (fun t => t.wire = [.cs1, .byte p.2 0xFF])) = true := by decide

/-! ### Local rows -/

/-- V40-1, V40-3: CONFIG of the tenth record, from CFG_RESET and from itself. -/
theorem test_cfgval :
    merge Config.cfgReset (cfgval par true) = cfg ∧ merge cfg (cfgval par true) = cfg ∧
      merge Config.cfgReset (cfgval par false) = { cfg with mstren := false, mancs := false } := by decide

/-- V30-5. -/
theorem test_results :
    (hi8 0x03FF0000).toNat = 3 ∧ (hi8 0x00FF0000).toNat = 0 ∧ (id24 0x182001FF).toNat = 0x182001 ∧
      (hi8 0xFF000000).toNat = 0xFF := by decide

/-- R254, V45-3, V45-4: 63 words are one chunk, 64 leave one filler word and chunks of 32. -/
theorem test_pump_setup :
    (fun q : Seq => (q.n, q.txRem, q.chunk)) { fresh.seq with count := 63 }.pumpSetup = (63, 0, 63) ∧
    (fun q : Seq => (q.n, q.txRem, q.chunk)) { fresh.seq with count := 64 }.pumpSetup = (63, 1, 32) ∧
    (fun q : Seq => (q.n, q.txRem, q.chunk)) { fresh.seq with count := 1 }.pumpSetup = (1, 0, 1) := by
  decide

/-- V43-8: the second page of a write at 0x00FFFF00. -/
theorem test_second_page :
    microInstr (regs ({ · with ust := .wt2, addr := 0x00FFFF00, pageI := 1, chunks := 2 }) ready) =
      some (.programPage 0x01000000 64) := by decide

/-- V44-3: WEL alone does not keep WAIT_WIP waiting; WIP does. -/
theorem test_wip_only :
    after (seqTurn (regs ({ · with ust := .ww2, sr := 2, stk := [⟨.label .er4, .none⟩] }) ready))
      (·.seq.ust = .er4) = true ∧
    after (seqTurn (regs ({ · with ust := .ww2, sr := 3 }) ready)) (·.seq.ust = .ww1) = true := by decide

/-! ### Witnesses: for each statement with hypotheses, states and operands that meet them, one for each
clause and at the ends of each range -/

theorem witness_DecodeOfEncodeIsTheInstruction :
    par.OpcodesDistinct ∧ Config.defaults.OpcodesDistinct ∧
    (encode par (.wren { noFields with fop := 0xFF, arg := 0xFFFF }) =
        some (.descriptor 0xFFFFFF07 0 0 0) ∧ ∀ w v, Code.descriptor 0xFFFFFF07 0 0 0 ≠ .entry w v) ∧
    (encode par .wireBe = some (.opcode 0xD8) ∧ ∀ w v, Code.opcode 0xD8 ≠ .entry w v) :=
  ⟨by decide, by decide, ⟨by decide, nofun⟩, ⟨by decide, nofun⟩⟩

theorem witness_EncodeOfDecodeIsTheDescriptor :
    decode par (.descriptor 0xFFFFFF07 1 2 3) =
      .ok (.wren { fop := 0xFF, arg := 0xFFFF, addr := 1, ptr := 2, count := 3 }) ∧
    decode par (.descriptor 0x0000000F 0 0 0) = .ok (.reserved15 noFields) := by decide

theorem witness_ReceivedBytesFillTheWordFromTheTop :
    ([] : List Byte).length ≤ 4 ∧ ([1, 2, 3, 4] : List Byte).length ≤ 4 := by decide

theorem witness_ResponsesAreExtracted :
    ([] : List Byte).length ≤ 3 ∧ ([1, 2, 3] : List Byte).length ≤ 3 := by decide

theorem witness_PagesAreCountedExactly :
    (0 : Word).toNat < 2 ^ 26 ∧ (0x3FFFFFF : Word).toNat < 2 ^ 26 ∧
    (0xFF000001 : Word).extractLsb' 0 24 = (1 : Word).extractLsb' 0 24 := by decide

theorem witness_AddressesAreByteReversed :
    (0xFF000001 : Word).extractLsb' 0 24 = (1 : Word).extractLsb' 0 24 := by decide

/-- One witness for each line of the chain of causes. -/
theorem witness_HostCommandIsRefusedOrAccepted :
    ((0x17 : Word).extractLsb' 4 4 ≠ 0) ∧ 9 ≤ ((9 : Word).extractLsb' 0 4).toNat ∧
    (row .x5 ready).seq.busy = true ∧ fresh.seq.shadow = none ∧
    (regs ({ · with manual := false }) ready).seq.manual = false ∧
    (0x1002 : Word).extractLsb' 0 2 ≠ 0 ∧
    (ready.seq.busy = false ∧ ready.seq.ust = .idle ∧ ready.seq.shadow ≠ none ∧ ready.seq.manual = true) := by
  decide

theorem witness_InitIsAcceptedWhenIdle :
    (fresh.seq.ust = .idle ∧ fresh.seq.busy = false) ∧ (ready.seq.ust = .idle ∧ ready.seq.busy = false) := by
  decide

theorem witness_TransferCommandsAreAccepted :
    (ready.seq.ust = .idle ∧ ready.seq.busy = false ∧ ready.seq.shadow ≠ none ∧ ready.seq.manual = true) ∧
    (∀ d ∈ [{ noFields with ptr := 0x1002 }, { noFields with ptr := 0xFFFFFFFC, count := 1 }],
      Desc.count d ≠ 0 → aligned d.ptr = true) := by decide

theorem witness_CommandsAreRefusedUnlessReady :
    (row .x5 ready).seq.busy = true ∧ (regs ({ · with ust := .x5 }) ready).seq.ust ≠ .idle ∧
    (fresh.seq.ust = .idle ∧ fresh.seq.busy = false ∧ fresh.seq.shadow = none) ∧
    (∀ s ∈ [regs ({ · with manual := false }) ready],
      State.accepting s = true ∧ s.seq.shadow ≠ none ∧ s.seq.manual = false) ∧
    (ready.seq.ust = .idle ∧ ready.seq.busy = false ∧ ready.seq.shadow ≠ none ∧ ready.seq.manual = true ∧
      (1 : Word) ≠ 0 ∧ aligned 0x1001 = false ∧ aligned 0x1002 = false ∧ aligned 0x1003 = false) := by
  decide

/-- CS_ON and CS_OFF: outside and inside a frame; START: in a frame. -/
theorem witness_CsOnAssertsChipSelect :
    (row .x2 ready).seq.shadow = some cfg ∧ (row .x2 ready).seq.ust ≠ .x7 ∧
    (row .x2 (framed ready)).seq.shadow = some cfgOn := by decide

theorem witness_CsOffDeassertsChipSelect :
    (row .x6 (framed ready)).seq.shadow = some cfgOn ∧ (row .x6 (framed ready)).seq.ust ≠ .x7 ∧
    (row .x6 ready).seq.shadow = some cfg := by decide

theorem witness_StartStartsTheEngine :
    (row .x4 (framed ready)).seq.shadow = some cfgOn ∧ (row .x4 (framed ready)).ctl.config = cfgOn ∧
      cfgOn.mstren = true ∧ (row .x4 (framed ready)).seq.ust ≠ .x7 := by decide

theorem witness_ConfigPrimitivesNeedAShadow :
    fresh.seq.shadow = none ∧
    (regs ({ · with shadow := some { cfg with mstren := false } }) ready).seq.shadow =
      some { cfg with mstren := false } := by decide

/-- The thresholds 1 and 63 are legal, 0 and 64 are not. -/
theorem witness_LegalThresholdsAreStored :
    ready.seq.ust ≠ .x7 ∧ (1 ≤ 1 ∧ 1 ≤ ready.par.rxDepth ∧ 1 ≤ ready.par.txDepth) ∧
    (1 ≤ 63 ∧ 63 ≤ ready.par.rxDepth ∧ 63 ≤ ready.par.txDepth) ∧
    ready.par.rxDepth < 64 ∧ ready.par.txDepth < 64 := by decide

/-- One place free, and none. -/
theorem witness_PushAppendsAnEntry :
    ready.seq.ust ≠ .x7 ∧ (tx (List.replicate 62 ⟨.w1, 0⟩) ready).ctl.txq.length < ready.par.txDepth ∧
    ready.par.txDepth ≤ (tx (List.replicate 63 ⟨.w1, 0⟩) ready).ctl.txq.length := by decide

theorem witness_TransmitEntriesCarryTheirBytes :
    ready.seq.ust ≠ .x7 ∧ ready.ctl.txq.length < ready.par.txDepth ∧
    aligned (ready.seq.ptr + 4 * 1) = true ∧ aligned ((0xFFFFFFFC : Word) + 4 * 1) = true := by decide

theorem witness_PopTakesTheHead :
    (rx [7, 8] ready).ctl.rxq = 7 :: [8] ∧ (rx [7, 8] ready).seq.ust ≠ .x7 ∧
    aligned ((rx [7, 8] ready).seq.ptr + 4 * 0x3FFFFFFF) = true := by decide

theorem witness_PopFromAnEmptyQueueUnderflows :
    ready.ctl.rxq = [] ∧ ready.seq.ust ≠ .x7 ∧ aligned (ready.seq.ptr + 4 * 1) = true := by decide

theorem witness_PopStoresOneWord :
    (rx [7] ready).hmem.wf = true ∧ (rx [7] ready).ctl.rxq = 7 :: [] ∧ (rx [7] ready).seq.ust ≠ .x7 ∧
    aligned ((rx [7] ready).seq.ptr + 4 * 0x3FFFFFFF) = true := by decide

theorem witness_PollGoesOnOrStays :
    ready.seq.ust ≠ .x7 ∧ ready.ctl.pollFlag .rxne = false ∧ ready.ctl.pollFlag .txnf = true ∧
    (rx [7] ready).ctl.pollFlag .rxne = true ∧ (tx [⟨.w1, 0⟩] ready).ctl.pollFlag .txnf = false := by decide

/-- Every row is the row of some state. -/
theorem witness_rows (l : Label) : (row l ready).seq.ust = l := rfl

/-- The stacks of the clauses. -/
theorem witness_ReturnsResumeTheCaller :
    ((row .x7 (rx [7] (regs ({ · with stk := [⟨.label .rs2, .none⟩] }) ready))).seq.ust = .x7 ∧
      (rx [7] ready).ctl.rxq = 7 :: [] ∧ Label.rs2 ≠ .ww2) ∧
    (∀ st ∈ [[⟨.label .wr3, .none⟩], [⟨.label .wt3, .write 1 2⟩], [⟨.label .pp9, .page 1 2 16⟩],
        [⟨.ret, .page 1 2 64⟩, ⟨.label .wt3, .write 1 2⟩], [⟨.label .ww2, .none⟩]],
      (regs ({ · with stk := st }) ready).seq.stk = st) := by decide

/-- The rows of the calls, T1 with each `op`, RD0 with words to read. -/
theorem witness_RowsRunTheirInstruction :
    (∀ l ∈ [Label.wr1, .er1, .pp1, .ww1], (row l ready).seq.ust = l) ∧
    (∀ o ∈ [(4 : BitVec 4), 5, 6, 7], ∀ s ∈ [regs ({ · with op := o }) (row .t1 ready)],
      s.seq.ust = .t1 ∧ s.seq.op = o) ∧
    (∀ s ∈ [regs ({ · with count := 1 }) (row .rd0 ready)], s.seq.ust = .rd0 ∧ s.seq.count ≠ 0) := by
  decide

/-- A shift of each width, under PatDev in a frame and outside one, under the oracle; and one that is not
enabled. -/
theorem witness_EngShiftsOneEntry :
    ready.engEnabled = false ∧
    ∀ w ∈ [Width.w1, .w2, .w3, .w4],
      (running [] (framed (tx [⟨w, 1⟩] ready))).engEnabled = true ∧
      (running [] (framed (tx [⟨w, 1⟩] ready))).ctl.config.endian = .little ∧
      (running [] (framed (tx [⟨w, 1⟩] ready))).ctl.config.fwidth = .w32 ∧
      (running [] (framed (tx [⟨w, 1⟩] ready))).ctl.linear = false ∧
      (running [] (tx [⟨w, 1⟩] ready)).engEnabled = true ∧
      frameSent (running [] (tx [⟨w, 1⟩] ready)).wire = none ∧
      { running [] (tx [⟨w, 1⟩] ready) with dev := .oracle }.dev = .oracle := by decide

theorem witness_OthersKeepReadFlags :
    (∃ t, engStep (rx [7] (running [] (framed (tx [⟨.w1, 1⟩, ⟨.w1, 2⟩] ready)))) = .next t) ∧
    (rx [7] ready).ctl.rxne = true ∧ ready.ctl.txnf = true ∧
    ∃ t, hostTurn { ready with host := { moves := [.readResult], seen := [], refusals := [] } } = .next t :=
  ⟨⟨_, rfl⟩, by decide, by decide, ⟨_, rfl⟩⟩

theorem witness_ResetPulseClearsTheController :
    { ready with plat := { locked := false, rst := false } }.plat.locked = false ∧
    ready.plat.locked = true ∧ ready.par.cfgReset.cslvl = .deasserted := by decide

theorem witness_InitEstablishesTheIdleState :
    ∀ m ∈ [true, false], ∀ s ∈ [{ regs ({ · with arg := if m then 1 else 2 }) (row .in1 (framed ready)) with
        sched := { turns := List.replicate 12 Agent.seq ++ [Agent.eng], mode := .sPoll, polled := false } }],
      s.seq.ust = .in1 ∧ s.seq.arg.getLsbD 0 = m ∧
      s.sched.turns = List.replicate 12 .seq ++ [.eng] ∧ s.par.cfgReset = Config.cfgReset ∧
      s.par.DepthsSuffice := by decide

/-- The bursts one before their end and at their end. -/
theorem witness_FinishedRowsGoWhereTheirTableSays :
    ((14 : BitVec 7).toNat < 15 ∧ (15 : BitVec 7).toNat = 15) ∧
    ((62 : BitVec 7).toNat < 63 ∧ (63 : BitVec 7).toNat = 63) ∧
    ((0 : BitVec 7).toNat < (2 : BitVec 7).toNat ∧ (0 : BitVec 7).toNat + 1 < (2 : BitVec 7).toNat) ∧
    ((62 : BitVec 7).toNat < (63 : BitVec 7).toNat ∧ (62 : BitVec 7).toNat + 1 = (63 : BitVec 7).toNat) := by
  decide

theorem witness_WriteCallsItsPages :
    (0 : Word).toNat < (1 : Word).toNat ∧ (0 : Word).toNat ≤ (0 : Word).toNat := by decide

theorem witness_WaitWipReadsUntilClear :
    (0x03 : Byte) &&& ready.par.wipMask ≠ 0 ∧ (0x02 : Byte) &&& ready.par.wipMask = 0 := by decide

theorem witness_DrainStopsAtTheFlag :
    (rx [7] ready).ctl.rxThres ≤ (rx [7] ready).ctl.rxq.length ∧
    ready.ctl.rxq.length < ready.ctl.rxThres := by decide

theorem witness_PumpSetupComparesCountWith63 :
    63 < (64 : Word).toNat ∧ (63 : Word).toNat ≤ 63 ∧ (0xFFFFFFFF : Word).toNat > 63 := by decide

theorem witness_PumpLoopServesTransmitFirst :
    (row .l2 ready).ctl.txnf = true ∧ (row .l2 (tx [⟨.w4, 0⟩] ready)).ctl.txnf = false ∧
    (row .l4 (rx [7] ready)).ctl.rxne = true ∧ (row .l4 ready).ctl.rxne = false := by decide

theorem witness_PumpBurstsAccountForTheirWords :
    ∀ q ∈ [{ ready.seq with ust := .l3, k := 30, n := 32, chunk := 32, rxRem := 95 },
        { ready.seq with ust := .l5, k := 31, n := 32, chunk := 32, rxRem := 95 },
        { ready.seq with ust := .l6, k := 0, n := 32, chunk := 32, rxRem := 63 }],
      q.k.toNat < q.n.toNat ∧ q.k.toNat < q.chunk.toNat ∧ (q.ust = .l6 → q.rxRem.toNat ≤ 63) := by decide

theorem witness_ZeroWordCommandsTouchNothing :
    ∀ s ∈ [{ ready with sched := { turns := [.seq, .seq, .seq], mode := .sPoll, polled := false } }],
      s.seq.count = 0 ∧ s.sched.turns = [.seq, .seq] ++ [.seq] ∧ s.sched.turns = [.seq, .seq, .seq] ++ [] := by
  decide

/-- HOST's turn, accepted and refused, SEQ's and ENG's; the turn of each mode. -/
theorem witness_StepRunsTheDecodedInstruction :
    (∀ s ∈ [{ ready with host := { moves := [.command 7 0 0 0], seen := [], refusals := [] } }],
      State.nextAgent s = .host ∧ s.host.moves = .command 7 0 0 0 :: [] ∧
        decode s.par (.descriptor 7 0 0 0) = .ok (.wren noFields)) ∧
    ((row .x5 ready).nextAgent = .seq ∧ microInstr (row .x5 ready) = some (.poll .rxne)) ∧
    (∀ s ∈ [{ running [] (framed (tx [⟨.w1, 6⟩] ready)) with
        sched := { turns := [.eng], mode := .sPoll, polled := false } }],
      State.nextAgent s = .eng ∧ s.engEnabled = true ∧ s.shiftRefusal = none ∧
        s.ctl.txq = { width := .w1, value := (6 : Byte).zeroExtend 32 } :: [] ∧
        decode s.par (.opcode 6) = .ok .wireWren) ∧
    isRefused (exec (.wren noFields) fresh) .notInitialised = true ∧
    (fresh.nextAgent = .host ∧ fresh.sched.turns = [] ∧ fresh.sched.mode = .sPoll) ∧
    (∀ m ∈ [SchedMode.sEager, .cycle (.seq :: [.eng]), .free 0],
      ∃ s ∈ [{ ready with sched := { turns := [], mode := m, polled := false } }],
        s.sched.turns = [] ∧ s.sched.mode = m) := by decide

theorem witness_HostMovesOnlyWhileIdle :
    ready.seq.busy = false ∧ ready.seq.ust = .idle ∧ aligned 0xFFFFFFFC = true ∧ aligned 0 = true ∧
    (∀ m ∈ [HostMove.readResult, .memRead 4, .memWrite 4 7],
      { ready with host := { moves := [m], seen := [], refusals := [] } }.host.moves = m :: []) ∧
    (row .x5 ready).seq.busy = true ∧ ready.host.moves = [] ∧
    isRefused (hostCommand 9 0 0 0 ready) .reservedOp = true ∧
    isRefused (hostCommand 0x17 0 0 0 ready) .reservedOp = true := by decide

/-- An instruction of each kind of the frame answers a next state. -/
theorem witness_InstructionsChangeOnlyWhatTheyName :
    ∀ i ∈ [Instr.wren noFields, .csOn, .csOff, .start, .setRxth 1, .setTxth 63, .push .w1 6, .fil4,
        .pop (.hbuf 1), .poll .rxne, .xfer .w1 6, .rxDrain, .wireCe],
      after (exec i (rx [7] ready)) (fun _ => true) = true := by decide

/-- READ of 100 words in its second chunk: 5 filler words still to push, 10 entries and 40 words in the
FIFOs, 3 words of the chunk popped (V45-8). -/
def midRead : State :=
  { row .l5 (regs (fun q => { q with
      op := 1, ptr := 0x1000, count := 100, rxRem := 68, txRem := 5, chunk := 32, n := 32, k := 3, off := 32 })
    (running [] (tx (List.replicate 10 ⟨.w4, 0⟩) (rx (List.replicate 40 7) (framed ready))))) with
    ctl := {
      en := true, config := cfgOn, linear := false, rxThres := 32, txThres := 32
      txq := List.replicate 10 ⟨.w4, 0⟩, rxq := List.replicate 40 7, running := true } }

/-- The drain of a page program between its two bursts, with 15 entries left of the 17. -/
def midPage : State :=
  { row .dr1 (regs (fun q => { q with
      op := 2, ptr := 0x2000, count := 64, chunks := 1, k := 16
      stk := [⟨.label .pp9, .page 0 0 16⟩, ⟨.label .wt3, .write 0 1⟩] }) (framed ready)) with
    ctl := {
      en := true, config := cfgOn, linear := false, rxThres := 1, txThres := 16
      txq := List.replicate 15 ⟨.w4, 0⟩, rxq := [7, 7], running := true } }

theorem midRead_row : midRead.seq.ust = .l5 := rfl

theorem midRead_runs : midRead.RunInvariant := by
  refine ⟨⟨by decide, by decide⟩, fun _ c h => Option.some.inj h, ⟨?_, by decide⟩, ⟨by decide, ?_⟩,
    ⟨fun c h _ => ?_, by decide, by decide, by decide, by decide⟩, by decide⟩
  · exact ⟨by decide, by decide, by decide, ⟨by decide, ⟨by decide, by decide⟩, by decide⟩⟩
  · exact ⟨rfl, rfl, by decide⟩
  · cases Option.some.inj h; rfl

theorem midPage_runs : midPage.RunInvariant := by
  refine ⟨⟨by decide, by decide⟩, fun _ c h => Option.some.inj h, ⟨?_, by decide⟩, ⟨by decide, ?_⟩,
    ⟨fun c h _ => ?_, by decide, by decide, by decide, by decide⟩, by decide⟩
  · exact ⟨rfl, fun _ => ⟨by decide, 0, 0, rfl⟩, by decide⟩
  · exact ⟨rfl, rfl, by decide⟩
  · cases Option.some.inj h; rfl

theorem ready_runs : ready.RunInvariant := by
  refine ⟨⟨by decide, by decide⟩, fun _ c h => Option.some.inj h, ⟨?_, by decide⟩, ⟨by decide, ?_⟩,
    ⟨fun c h _ => ?_, by decide, by decide, by decide, by decide⟩, by decide⟩
  · exact Or.inr ⟨rfl, rfl⟩
  · exact Or.inr ⟨rfl, rfl, rfl⟩
  · cases Option.some.inj h; rfl

/-- A step of SEQ, of ENG and of HOST from states of a run. -/
theorem witness_steps :
    (∃ t, step midRead = .next t) ∧ (∃ t, step midPage = .next t) ∧ (∃ t, step ready = .next t) ∧
      ∃ t, step { midRead with sched := { turns := [.eng], mode := .sPoll, polled := false } } = .next t :=
  ⟨⟨_, rfl⟩, ⟨_, rfl⟩, ⟨_, rfl⟩, ⟨_, rfl⟩⟩

theorem witness_OnlyInitTouchesEnableLinearAndPlatform :
    (midRead.nextAgent = .seq → midRead.seq.ust ∉ [Label.in1, .in2, .in3, .in4, .in5, .in8, .in11]) ∧
    (midRead.nextAgent = .seq → midRead.seq.ust ≠ .in3 ∧ midRead.seq.ust ≠ .in10 ∧
      microInstr midRead ∉ [some Instr.csOn, some .csOff, some .start]) ∧
    (midPage.nextAgent = .seq → midPage.seq.ust ≠ .l5) ∧ midPage.nextAgent ≠ .host := by decide

theorem witness_StepKeepsMemoryCanonical : midRead.hmem.wf = true ∧ ∃ t, step midRead = .next t :=
  ⟨by decide, _, rfl⟩

theorem witness_StepKeepsFifosBounded : midRead.FifosBounded ∧ ∃ t, step midRead = .next t :=
  ⟨⟨by decide, by decide⟩, _, rfl⟩

theorem witness_StepKeepsShadowInvariant :
    midRead.ShadowInvariant ∧ midRead.seq.shadow ≠ none ∧ ∃ t, step midRead = .next t :=
  ⟨midRead_runs.2.1, by decide, _, rfl⟩

theorem witness_StepKeepsStackInvariant :
    midPage.StackInvariant ∧ midPage.seq.stk.length = 2 ∧ ∃ t, step midPage = .next t :=
  ⟨midPage_runs.1, by decide, _, rfl⟩

/-- The deepest stack: WRITE, PROGRAM_PAGE, WAIT_WIP, RDSR, XFER with four records. -/
theorem witness_StackIsAtMostFourDeep :
    ∃ s : State, s.StackInvariant ∧ s.seq.stk.length = 4 :=
  ⟨row .x5 (regs ({ · with stk := [⟨.label .rs2, .none⟩, ⟨.label .ww2, .none⟩, ⟨.ret, .page 0 0 64⟩,
    ⟨.label .wt3, .write 0 1⟩] }) ready), ⟨by decide, by decide⟩, by decide⟩

theorem witness_StepKeepsFifoPlan :
    midRead.StackInvariant ∧ midRead.FifoPlan ∧ midRead.par.DepthsSuffice ∧ ∃ t, step midRead = .next t :=
  ⟨midRead_runs.1, midRead_runs.2.2.1, by decide, _, rfl⟩

/-- The page program's drain too. -/
theorem witness_NoScheduleOverflowsOrUnderflows :
    midPage.StackInvariant ∧ midPage.FifoPlan ∧ midPage.par.DepthsSuffice ∧ ∃ t, step midPage = .next t :=
  ⟨midPage_runs.1, midPage_runs.2.2.1, by decide, _, rfl⟩

theorem witness_StepKeepsFramePlan : midPage.RunInvariant ∧ ∃ t, step midPage = .next t :=
  ⟨midPage_runs, _, rfl⟩

theorem witness_StepKeepsCommandPlan :
    midRead.StackInvariant ∧ midRead.CommandPlan ∧ ∃ t, step midRead = .next t :=
  ⟨midRead_runs.1, midRead_runs.2.2.2.2.1, _, rfl⟩

theorem witness_IdleAfterInitIsQuiescent :
    ready.RunInvariant ∧ ready.seq.ust = .idle ∧ ready.seq.shadow ≠ none :=
  ⟨ready_runs, by decide, by decide⟩

theorem witness_SeqAlwaysMoves : midRead.RunInvariant ∧ midPage.RunInvariant :=
  ⟨midRead_runs, midPage_runs⟩

end Sys2Proof.Tests
end

/-! SUPPORT. The frame of every instruction (R10, R157, R170 to R179): what it leaves alone in the machine
around SEQ and in SEQ's registers. -/

namespace Sys2Proof.Machine

/-! ## Families of instructions -/

/-- An instruction that writes a transmit port is one PUSH (R116, R175). -/
theorem exec_eq_pushEntry {i : Instr} {s t : State} (hi : Instr.pushes i = true)
    (h : exec i s = .next t) : ∃ w v, pushEntry w v s = .next t := by
  cases i with
  | push | op1 | op2 | opr3 | adr3 | adr4 | opa4 | opz4 | fil4 => exact ⟨_, _, h⟩
  | dat4 => exact ⟨_, _, (execDat4_eq_next h).2⟩
  | _ => cases hi

/-- A command that answers a next state has been accepted (R114); a reserved number never does (R113). -/
theorem exec_eq_accept {i : Instr} {s t : State} (hi : Instr.isCommand i = true)
    (h : exec i s = .next t) : ∃ op l d, t = accept op l d s := by
  cases i with
  | init | read | write | erase | readId | readSr | readSr2 | wren | wrr =>
    simp only [exec, execInit, execRead, execWrite, execErase, execReadId, execReadSr, execReadSr2,
      execWren, execWrr] at h
    obtain ⟨-, -, ht⟩ := acceptUnless_eq_next h
    exact ⟨_, _, _, ht⟩
  | reserved9 | reserved10 | reserved11 | reserved12 | reserved13 | reserved14 | reserved15 => cases h
  | _ => cases hi

/-- A wire opcode is the exchange of one byte (R122, R280). -/
theorem exec_eq_exchange {i : Instr} {s t : State} (hi : Instr.isOpcode i = true)
    (h : exec i s = .next t) : ∃ b, t = exchange b s := by
  cases i with
  | wireRdid | wireRdsr | wireRdsr2 | wireWren | wireWrr | wireRead | wirePp | wireSe | wireBe
  | wireCe => cases h; exact ⟨_, rfl⟩
  | _ => cases hi

/-- A command is neither a wire opcode nor an access of SEQ. -/
theorem not_isOpcode_not_isAccess_of_isCommand {i : Instr} (hi : Instr.isCommand i = true) :
    Instr.isOpcode i = false ∧ Instr.isAccess i = false := by
  cases i with
  | init | read | write | erase | readId | readSr | readSr2 | wren | wrr | reserved9 | reserved10
  | reserved11 | reserved12 | reserved13 | reserved14 | reserved15 => exact ⟨rfl, rfl⟩
  | _ => cases hi

/-- An access of SEQ is no wire opcode, which is ENG's. -/
theorem not_isOpcode_of_isAccess {i : Instr} (hi : Instr.isAccess i = true) :
    Instr.isOpcode i = false := by
  cases i with
  | wireRdid | wireRdsr | wireRdsr2 | wireWren | wireWrr | wireRead | wirePp | wireSe | wireBe
  | wireCe => cases hi
  | _ => rfl

/-! ## The machine around SEQ -/

/-- What the instruction `i` leaves alone outside SEQ's registers, `u` being a state after it. -/
structure MachineFrame (i : Instr) (s u : State) : Prop where
  par : u.par = s.par
  plat : u.plat = s.plat
  host : u.host = s.host
  sched : u.sched = s.sched
  en : u.ctl.en = s.ctl.en
  linear : u.ctl.linear = s.ctl.linear
  rxOverrun : u.flags.rxOverrun = s.flags.rxOverrun
  hmem : (∀ j, i ≠ .pop (.hbuf j)) → u.hmem = s.hmem
  config : i ≠ .csOn → i ≠ .csOff → i ≠ .start →
    u.ctl.config = s.ctl.config ∧ u.ctl.running = s.ctl.running
  rxq : (∀ dst, i ≠ .pop dst) → u.ctl.rxq = s.ctl.rxq ∧ u.flags.rxUnderflow = s.flags.rxUnderflow
  draws : (∀ dst, i ≠ .pop dst) → u.draws = s.draws
  rxThres : (∀ n, i ≠ .setRxth n) → u.ctl.rxThres = s.ctl.rxThres
  txThres : (∀ n, i ≠ .setTxth n) → u.ctl.txThres = s.ctl.txThres
  txq : Instr.pushes i = false → u.ctl.txq = s.ctl.txq ∧ u.flags.txOverflow = s.flags.txOverflow
  dev : Instr.isOpcode i = false → u.dev = s.dev
  wire : Instr.isOpcode i = false → i ≠ .csOn → i ≠ .csOff → i ≠ .start → u.wire = s.wire
  regTrace : ∃ l : List Access, l.length ≤ 1 ∧ u.regTrace = s.regTrace ++ l

namespace MachineFrame

variable {i : Instr} {s u : State}

theorem refl (i : Instr) (s : State) : MachineFrame i s s where
  par := rfl
  plat := rfl
  host := rfl
  sched := rfl
  en := rfl
  linear := rfl
  rxOverrun := rfl
  hmem _ := rfl
  config _ _ _ := ⟨rfl, rfl⟩
  rxq _ := ⟨rfl, rfl⟩
  draws _ := rfl
  rxThres _ := rfl
  txThres _ := rfl
  txq _ := ⟨rfl, rfl⟩
  dev _ := rfl
  wire _ _ _ _ := rfl
  regTrace := ⟨[], Nat.zero_le 1, (List.append_nil _).symm⟩

/-- SEQ's registers are no part of it. -/
theorem setSeq (m : MachineFrame i s u) (q : Seq) : MachineFrame i s (u.setSeq q) := { m with }

/-- One access more, where none has been recorded. -/
theorem record (m : MachineFrame i s u) (h : u.regTrace = s.regTrace) (a : Access) :
    MachineFrame i s (u.record a) :=
  { m with regTrace := ⟨[a], Nat.le_refl 1, congrArg (· ++ [a]) h⟩ }

theorem exchange (b : Byte) (hi : Instr.isOpcode i = true) :
    MachineFrame i s (Machine.exchange b s) :=
  { refl i s with
    dev := fun h => by simp [hi] at h
    wire := fun h => by simp [hi] at h }

/-- A TXD write touches TXQ and `tx_overflow` (Table 20-1). -/
theorem txdWrite (w : Width) (v : Word) (hi : Instr.pushes i = true) :
    MachineFrame i s (Machine.txdWrite w v s) := by
  have hq {P : Prop} (h : Instr.pushes i = false) : P := by simp [hi] at h
  refine record ?_ (txAppend_regTrace ..) _
  by_cases h : s.ctl.txq.length < s.par.txDepth
  · rw [txAppend_of_room _ h]
    exact { refl i s with txq := hq }
  · rw [txAppend_of_full _ h]
    exact { refl i s with txq := hq }

/-- An RXD read touches RXQ, `rx_underflow` and the draws (Table 20-1). -/
theorem rxdRead (dst : PopDest) (s : State) : MachineFrame (.pop dst) s (Machine.rxdRead s) := by
  have hq {P : Prop} (h : ∀ d, Instr.pop dst ≠ .pop d) : P := absurd rfl (h dst)
  refine record ?_ (rxTake_regTrace s) _
  cases h : s.ctl.rxq with
  | nil =>
    rw [rxTake_of_nil h]
    exact { refl _ s with rxq := hq, draws := hq }
  | cons w q =>
    rw [rxTake_of_cons h]
    exact { refl _ s with rxq := hq }

/-- A CONFIG write touches CONFIG, `running` and WIRE (Table 20-1). -/
theorem ctlWriteConfig (c : CtlConfig) (b : Bool) (hi : i = .csOn ∨ i = .csOff ∨ i = .start)
    (m : MachineFrame i s u) (h : u.regTrace = s.regTrace) :
    MachineFrame i s (Machine.ctlWriteConfig c b u) := by
  have hq {P : Prop} (h₁ : i ≠ .csOn) (h₂ : i ≠ .csOff) (h₃ : i ≠ .start) : P := by
    simp [h₁, h₂, h₃] at hi
  exact { m with
    config := hq
    wire := fun _ => hq
    regTrace := ⟨[.wConfig c b], Nat.le_refl 1, congrArg (· ++ [_]) h⟩ }

end MachineFrame

/-! ## SEQ's registers at the end of a row -/

/-- The registers of READ's pump, which no return record saves. -/
def Seq.pump (q : Seq) : Word × Word × Word × BitVec 7 := (q.txRem, q.rxRem, q.off, q.chunk)

@[simp] theorem Seq.restore_pump (q : Seq) (v : Saved) : (q.restore v).pump = q.pump := by
  cases v <;> rfl

@[simp] theorem Seq.resumeAt_pump (q : Seq) (l : Label) : (q.resumeAt l).pump = q.pump := by
  unfold Seq.resumeAt; split <;> rfl

/-- A return leaves the pump's registers alone. -/
theorem Seq.returnVia_pump {rs : List Record} {q q' : Seq} (h : Seq.returnVia rs q = some q') :
    q'.pump = q.pump := by
  induction rs generalizing q with
  | nil => cases h
  | cons r rs ih =>
    unfold Seq.returnVia at h
    split at h
    · cases h
      exact (Seq.resumeAt_pump _ _).trans (q.restore_pump r.saved)
    · exact (ih h).trans (q.restore_pump r.saved)

/-- The rows whose end moves `k`: those that begin or count a burst, and X7, which returns (log 16, 17). -/
def Label.movesK : List Label := [.x7, .pp3, .pp4, .pp9, .rd12, .l3, .l5]

/-- The working registers and the stack at the end of the row of `a`: each moves at the rows that name
it only (Tables 42-1, 43-2, 45-1; log 16, 17). -/
structure Seq.RowFrame (a b : Seq) : Prop where
  saved : a.ust ≠ .x7 →
    b.pageI = a.pageI ∧ b.chunks = a.chunks ∧ b.sr = a.sr ∧ b.pa = a.pa ∧ b.pb = a.pb
  stk : a.ust ≠ .x7 → b.stk = a.stk
  k : a.ust ∉ Label.movesK → b.k = a.k
  txRem : a.ust ≠ .l3 → b.txRem = a.txRem
  rxRem : a.ust ≠ .l5 → b.rxRem = a.rxRem ∧ b.off = a.off
  chunk : a.ust ≠ .l6 → b.chunk = a.chunk

namespace Seq.RowFrame

theorem refl (q : Seq) : q.RowFrame q where
  saved _ := ⟨rfl, rfl, rfl, rfl, rfl⟩
  stk _ := rfl
  k _ := rfl
  txRem _ := rfl
  rxRem _ := ⟨rfl, rfl⟩
  chunk _ := rfl

/-- At the rows that move `k`, only it moves. -/
theorem of_k {q : Seq} (hk : q.ust ∈ Label.movesK) (k : BitVec 7) : q.RowFrame { q with k := k } :=
  { refl q with k := fun h => absurd hk h }

/-- A burst counts in `k`; its last step also does what `last` does. -/
theorem burst {q : Seq} {len : Nat} {last : Seq → Seq} (hk : q.ust ∈ Label.movesK)
    (hlast : q.RowFrame (last { q with k := 0 })) : q.RowFrame (q.burst len last) := by
  unfold Seq.burst
  split
  · exact of_k hk _
  · exact hlast

/-- The end of a row that does not return. -/
theorem afterRow (q : Seq) : q.RowFrame q.afterRow := by
  have moves {l : Label} (h : q.ust = l) (hl : l ∈ Label.movesK := by decide) :
      q.ust ∈ Label.movesK := h ▸ hl
  unfold Seq.afterRow
  split
  -- PP3 and PP4, the first burst of a page program
  next h => exact { of_k (moves h) 0 with }
  next h =>
    split
    · exact of_k (moves h) _
    · exact { of_k (moves h) (BitVec.ofNat 7 Config.burst1) with }
  -- PP9 and RD12, bursts that end in nothing but the next label
  next h => exact burst (moves h) { of_k (moves h) 0 with }
  next h => exact burst (moves h) { of_k (moves h) 0 with }
  -- RD13, a choice of the next label
  next => exact { refl q with }
  -- L3 and L5, the pump's bursts
  next h => exact burst (moves h) { of_k (moves h) 0 with txRem := absurd h }
  next h => exact burst (moves h) { of_k (moves h) 0 with rxRem := absurd h }
  -- L6, the new chunk
  next h => exact { refl q with chunk := absurd h }
  -- every other row
  next => exact { refl q with }

/-- A return brings back what its record saves, and leaves the pump alone (R180). -/
theorem returnVia {rs : List Record} {q q' : Seq} (hx : q.ust = .x7)
    (h : Seq.returnVia rs q = some q') : q.RowFrame q' := by
  have hp := Seq.returnVia_pump h
  simp only [Seq.pump, Prod.mk.injEq] at hp
  obtain ⟨htx, hrx, hoff, hchunk⟩ := hp
  exact {
    saved := absurd hx
    stk := absurd hx
    k := absurd (by rw [hx]; decide)
    txRem := fun _ => htx
    rxRem := fun _ => ⟨hrx, hoff⟩
    chunk := fun _ => hchunk }

end Seq.RowFrame

/-- The end of a row, in SEQ's registers. -/
theorem State.advance_rowFrame {s t : State} (h : s.advance = .next t) : s.seq.RowFrame t.seq := by
  by_cases hx : s.seq.ust = .x7
  · rw [State.advance_of_x7 hx] at h
    obtain ⟨q, hq, rfl⟩ := State.doReturn_eq_next h
    exact .returnVia hx hq
  · rw [State.advance_of_ne hx] at h
    cases h
    exact .afterRow s.seq

/-! ## SEQ's registers after an instruction -/

/-- What the instruction `i` leaves alone in SEQ's registers. -/
structure SeqFrame (i : Instr) (a b : Seq) : Prop where
  result : b.result = a.result
  manual : b.manual = a.manual
  old : b.old = a.old
  n : b.n = a.n
  ret : b.ret = a.ret
  opc : b.opc = a.opc
  shadow : i ≠ .csOn → i ≠ .csOff → b.shadow = a.shadow
  command : Instr.isCommand i = false →
    b.op = a.op ∧ b.fop = a.fop ∧ b.arg = a.arg ∧ b.addr = a.addr ∧
      b.ptr = a.ptr ∧ b.count = a.count ∧ b.busy = a.busy
  tmp : i ≠ .pop .tmp → b.tmp = a.tmp
  xfer : (∀ w v, i ≠ .xfer w v) → b.xw = a.xw ∧ b.xv = a.xv
  saved : (Instr.isAccess i = true → a.ust ≠ .x7) →
    b.pageI = a.pageI ∧ b.chunks = a.chunks ∧ b.sr = a.sr ∧
      ((∀ pa pb, i ≠ .programPage pa pb) → b.pa = a.pa ∧ b.pb = a.pb)
  k : (Instr.isAccess i = true → a.ust ∉ Label.movesK) → b.k = a.k
  txRem : (Instr.isAccess i = true → a.ust ≠ .l3) → b.txRem = a.txRem
  rxRem : (Instr.isAccess i = true → a.ust ≠ .l5) → b.rxRem = a.rxRem ∧ b.off = a.off
  chunk : (Instr.isAccess i = true → a.ust ≠ .l6) → b.chunk = a.chunk
  stk : Instr.isOpcode i = true ∨ Instr.isAccess i = true ∧ a.ust ≠ .x7 → b.stk = a.stk

namespace SeqFrame

theorem refl (i : Instr) (q : Seq) : SeqFrame i q q where
  result := rfl
  manual := rfl
  old := rfl
  n := rfl
  ret := rfl
  opc := rfl
  shadow _ _ := rfl
  command _ := ⟨rfl, rfl, rfl, rfl, rfl, rfl, rfl⟩
  tmp _ := rfl
  xfer _ := ⟨rfl, rfl⟩
  saved _ := ⟨rfl, rfl, rfl, fun _ => ⟨rfl, rfl⟩⟩
  k _ := rfl
  txRem _ := rfl
  rxRem _ := ⟨rfl, rfl⟩
  chunk _ := rfl
  stk _ := rfl

/-- Acceptance latches the command registers and empties the stack (R114). -/
theorem accept {i : Instr} (hi : Instr.isCommand i = true) (op : BitVec 4) (l : Label) (d : Desc)
    (s : State) : SeqFrame i s.seq (Machine.accept op l d s).seq := by
  obtain ⟨ho, ha⟩ := not_isOpcode_not_isAccess_of_isCommand hi
  exact { refl i s.seq with
    command := fun h => by simp [hi] at h
    stk := fun h => by simp [ho, ha] at h }

/-- An access writes `shadow` and `tmp` at most; the end of its row does the rest. -/
theorem access {i : Instr} {a b : Seq} {c : Option CtlConfig} {w : Word}
    (hi : Instr.isAccess i = true) (hc : i ≠ .csOn → i ≠ .csOff → c = a.shadow)
    (hw : i ≠ .pop .tmp → w = a.tmp) (hk : Seq.Keeps { a with shadow := c, tmp := w } b)
    (hr : Seq.RowFrame { a with shadow := c, tmp := w } b) : SeqFrame i a b where
  result := hk.result
  manual := hk.manual
  old := hk.old
  n := hk.n
  ret := hk.ret
  opc := hk.opc
  shadow h₁ h₂ := hk.shadow.trans (hc h₁ h₂)
  command _ := ⟨hk.op, hk.fop, hk.arg, hk.addr, hk.ptr, hk.count, hk.busy⟩
  tmp h := hk.tmp.trans (hw h)
  xfer _ := ⟨hk.xw, hk.xv⟩
  saved h :=
    have ⟨hpage, hchunks, hsr, hab⟩ := hr.saved (h hi)
    ⟨hpage, hchunks, hsr, fun _ => hab⟩
  k h := hr.k (h hi)
  txRem h := hr.txRem (h hi)
  rxRem h := hr.rxRem (h hi)
  chunk h := hr.chunk (h hi)
  stk h := hr.stk (h.elim (fun ho => by simp [not_isOpcode_of_isAccess hi] at ho) And.right)

end SeqFrame

/-! ## One access of SEQ -/

/-- `u` is `s` after the access that `i` names, before the end of the row. -/
structure AccessMade (i : Instr) (s u : State) : Prop where
  machine : MachineFrame i s u
  seq : ∃ c w, u.seq = { s.seq with shadow := c, tmp := w } ∧
    (i ≠ .csOn → i ≠ .csOff → c = s.seq.shadow) ∧ (i ≠ .pop .tmp → w = s.seq.tmp)

namespace AccessMade

variable {i : Instr} {s t u : State}

/-- An access that leaves SEQ's registers alone. -/
theorem of_seq_eq (m : MachineFrame i s u) (h : u.seq = s.seq) : AccessMade i s u :=
  ⟨m, s.seq.shadow, s.seq.tmp, h, fun _ _ => rfl, fun _ => rfl⟩

/-- CS_ON and CS_OFF set the level in `shadow` and write CONFIG (R170, R171). -/
theorem chipSelect (hi : i = .csOn ∨ i = .csOff) (c : CtlConfig) (s : State) :
    AccessMade i s (ctlWriteConfig c false (s.setSeq { s.seq with shadow := some c })) where
  machine := ((MachineFrame.refl i s).setSeq _).ctlWriteConfig c false
    (hi.imp_right .inl) rfl
  seq := ⟨some c, s.seq.tmp, rfl, fun h₁ h₂ => absurd hi (not_or.2 ⟨h₁, h₂⟩), fun _ => rfl⟩

/-- POP's destination is `tmp`, a word of the host buffer, or nothing (R176). -/
theorem pop {dst : PopDest} (h : storePopped dst (rxdValue s) (rxdRead s) = .next u) :
    AccessMade (.pop dst) s u := by
  have m := MachineFrame.rxdRead dst s
  obtain ⟨rfl, rfl⟩ | ⟨rfl, rfl⟩ | ⟨j, rfl, -, rfl⟩ := storePopped_eq_next h
  · exact ⟨m.setSeq _, s.seq.shadow, rxdValue s, by rw [State.setSeq_seq, rxdRead_seq],
      fun _ _ => rfl, fun h => absurd rfl h⟩
  · exact of_seq_eq m (rxdRead_seq s)
  · exact of_seq_eq { m with hmem := fun h => absurd rfl (h j) } (rxdRead_seq s)

/-- The row's access is made and the row has ended, or a POLL stays at it. -/
theorem frame (hi : Instr.isAccess i = true) (h : AccessMade i s u)
    (ht : u.advance = .next t ∨ t = u) : MachineFrame i s t ∧ SeqFrame i s.seq t.seq := by
  obtain ⟨m, c, w, hu, hc, hw⟩ := h
  obtain ha | rfl := ht
  · obtain ⟨q, rfl, hk⟩ := State.advance_keeps ha
    have hr := State.advance_rowFrame ha
    rw [hu] at hk hr
    exact ⟨m.setSeq q, .access hi hc hw hk hr⟩
  · exact ⟨m, hu ▸ .access hi hc hw (.refl _) (.refl _)⟩

end AccessMade

/-- A primitive or transmit entry makes its access; then the row ends, or a POLL stays at it. -/
theorem exec_accessMade {i : Instr} {s t : State} (hi : Instr.isAccess i = true)
    (h : exec i s = .next t) : ∃ u, AccessMade i s u ∧ (u.advance = .next t ∨ t = u) := by
  by_cases hp : Instr.pushes i = true
  · obtain ⟨w, v, ha⟩ := exec_eq_pushEntry hp h
    exact ⟨_, .of_seq_eq (.txdWrite w v hp) (txdWrite_seq s w v), .inl ha⟩
  cases i with
  | csOn =>
    obtain ⟨c, -, ha⟩ := setChipSelect_eq_next h
    exact ⟨_, .chipSelect (.inl rfl) _ s, .inl ha⟩
  | csOff =>
    obtain ⟨c, -, ha⟩ := setChipSelect_eq_next h
    exact ⟨_, .chipSelect (.inr rfl) _ s, .inl ha⟩
  | start =>
    obtain ⟨c, -, -, ha⟩ := execStart_eq_next h
    exact ⟨_, .of_seq_eq ((MachineFrame.refl _ s).ctlWriteConfig c true (.inr (.inr rfl)) rfl) rfl,
      .inl ha⟩
  | setRxth n =>
    obtain ⟨-, ha⟩ := execSetRxth_eq_next h
    have m : MachineFrame (.setRxth n) s (s.setCtl { s.ctl with rxThres := n }) :=
      { MachineFrame.refl _ s with rxThres := fun h => absurd rfl (h n) }
    exact ⟨_, .of_seq_eq (m.record rfl _) rfl, .inl ha⟩
  | setTxth n =>
    obtain ⟨-, ha⟩ := execSetTxth_eq_next h
    have m : MachineFrame (.setTxth n) s (s.setCtl { s.ctl with txThres := n }) :=
      { MachineFrame.refl _ s with txThres := fun h => absurd rfl (h n) }
    exact ⟨_, .of_seq_eq (m.record rfl _) rfl, .inl ha⟩
  | pop dst =>
    obtain ⟨u, hu, ha⟩ := execPop_eq_next h
    exact ⟨u, .pop hu, .inl ha⟩
  | poll f =>
    exact ⟨ctlReadStatus s, .of_seq_eq ((MachineFrame.refl _ s).record rfl _) rfl,
      (execPoll_eq_next h).imp And.right And.right⟩
  | push | op1 | op2 | opr3 | adr3 | adr4 | opa4 | opz4 | dat4 | fil4 => exact absurd rfl hp
  | _ => cases hi

/-! ## The frame of every instruction -/

/-- Commands, calls, accesses and wire opcodes stay in both frames. -/
theorem exec_frame {i : Instr} {s t : State} (h : exec i s = .next t) :
    MachineFrame i s t ∧ SeqFrame i s.seq t.seq := by
  by_cases hc : Instr.isCommand i = true
  · obtain ⟨op, l, d, rfl⟩ := exec_eq_accept hc h
    exact ⟨(MachineFrame.refl i s).setSeq _, .accept hc op l d s⟩
  by_cases ha : Instr.isAccess i = true
  · obtain ⟨u, hu, ht⟩ := exec_accessMade ha h
    exact hu.frame ha ht
  by_cases ho : Instr.isOpcode i = true
  · obtain ⟨b, rfl⟩ := exec_eq_exchange ho h
    exact ⟨.exchange b ho, .refl i s.seq⟩
  have hs {P : Prop} (hstk : Instr.isOpcode i = true ∨ Instr.isAccess i = true ∧ s.seq.ust ≠ .x7) :
      P := by simp [ha, ho] at hstk
  cases i with
  | xfer w v =>
    cases h
    exact ⟨{ MachineFrame.refl _ s with }, { SeqFrame.refl _ s.seq with
      stk := hs, xfer := fun hx => absurd rfl (hx w v) }⟩
  | programPage pa pb =>
    cases h
    exact ⟨{ MachineFrame.refl _ s with }, { SeqFrame.refl _ s.seq with
      stk := hs, saved := fun _ => ⟨rfl, rfl, rfl, fun hx => absurd rfl (hx pa pb)⟩ }⟩
  | waitWip | rxDrain =>
    cases h
    exact ⟨{ MachineFrame.refl _ s with }, { SeqFrame.refl _ s.seq with stk := hs }⟩
  | init | read | write | erase | readId | readSr | readSr2 | wren | wrr | reserved9 | reserved10
  | reserved11 | reserved12 | reserved13 | reserved14 | reserved15 => exact absurd rfl hc
  | wireRdid | wireRdsr | wireRdsr2 | wireWren | wireWrr | wireRead | wirePp | wireSe | wireBe
  | wireCe => exact absurd rfl ho
  | _ => exact absurd rfl ha

/-- Settles O47: a case split over the families of instructions, each in the frame of the machine around
SEQ and in that of SEQ's registers. -/
theorem instructionsChangeOnlyWhatTheyName : Obligations.InstructionsChangeOnlyWhatTheyName := by
  intro i s t h
  obtain ⟨m, q⟩ := exec_frame h
  exact ⟨m.par, m.plat, m.host, m.sched, m.en, m.linear, m.hmem, q.shadow, m.config, m.rxq, m.rxThres,
    m.txThres, m.txq, m.rxOverrun, q.result, q.manual, q.old, q.n, q.ret, q.opc, q.command, q.tmp,
    m.draws, fun ho => ⟨m.dev ho, m.wire ho⟩, q.xfer, q.saved, q.k, q.txRem, q.rxRem, q.chunk, q.stk,
    m.regTrace⟩

end Sys2Proof.Machine

/-! SUPPORT. HMEM, the FIFO words and the turns of a step: what HOST's move can do, who writes HMEM, the
receive word (R76), the flags beside SEQ (R86, R87), and the instruction a step runs (R85, R286). -/

namespace Sys2Proof.Machine

/-! ## What HOST can do (R285) -/

/-- A descriptor decodes to a command or a reserved operation number (Table 30-2). -/
theorem isCommand_of_decodeCommand {d0 d1 d2 d3 : Word} {i : Instr}
    (h : decodeCommand d0 d1 d2 d3 = .ok i) : Instr.isCommand i = true := by
  unfold decodeCommand at h
  split at h
  · cases h
    unfold commandOf
    split <;> rfl
  · cases h

/-- A descriptor that is not refused is a command that is accepted (R114). -/
theorem hostCommand_eq_next {d0 d1 d2 d3 : Word} {s t : State}
    (h : hostCommand d0 d1 d2 d3 s = .next t) : ∃ op l d, t = accept op l d s := by
  unfold hostCommand at h
  split at h
  · exact exec_eq_accept (isCommand_of_decodeCommand (by assumption)) h
  · cases h

/-- HOST's move is the acceptance of a command, a read of a word, or a write of one word of HMEM. -/
theorem hostMove_eq_next {m : HostMove} {s t : State} (h : hostMove m s = .next t) :
    (∃ op l d, t = accept op l d s) ∨ (∃ v, t = s.observe v) ∨
      ∃ a v, t = { s with hmem := s.hmem.writeWord a v } := by
  cases m with
  | command d0 d1 d2 d3 => exact .inl (hostCommand_eq_next h)
  | readResult => exact .inr (.inl ⟨_, (hostRead_eq_next h).2⟩)
  | memRead a =>
    obtain ⟨-, -, ht⟩ := hostMemRead_eq_next h
    exact .inr (.inl ⟨_, ht⟩)
  | memWrite a v =>
    obtain ⟨-, -, ht⟩ := hostMemWrite_eq_next h
    exact .inr (.inr ⟨a, v, ht⟩)

/-! ## HMEM along a step (R71) -/

/-- The end of a row leaves HMEM alone. -/
theorem State.advance_hmem {s t : State} (h : s.advance = .next t) : t.hmem = s.hmem := by
  obtain ⟨q, rfl⟩ := State.advance_eq_next h
  rfl

/-- A return leaves HMEM alone. -/
theorem State.doReturn_hmem {s t : State} (h : s.doReturn = .next t) : t.hmem = s.hmem := by
  obtain ⟨q, -, rfl⟩ := State.doReturn_eq_next h
  rfl

@[simp] theorem platSetReset_hmem (s : State) : (platSetReset s).hmem = s.hmem := by
  by_cases h : s.plat.locked = true <;> simp [platSetReset, h]

@[simp] theorem platClearReset_hmem (s : State) : (platClearReset s).hmem = s.hmem := by
  by_cases h : s.plat.locked = true <;> simp [platClearReset, h]

/-- T1's calls leave HMEM alone. -/
theorem callForOp_hmem {s t : State} (h : callForOp s = .next t) : t.hmem = s.hmem := by
  unfold callForOp at h
  split at h <;> cases h <;> rfl

/-- A row that is no instruction has no access to HMEM (R91, R179). -/
theorem localStep_hmem {s t : State} (h : localStep s = .next t) : t.hmem = s.hmem := by
  cases hu : s.seq.ust <;> simp only [localStep, hu] at h
  case in1 | in2 | in5 | in8 | in9 | in10 => exact (State.advance_hmem h).trans rfl
  case in3 => exact (State.advance_hmem h).trans (platSetReset_hmem s)
  case in4 => exact (State.advance_hmem h).trans (platClearReset_hmem s)
  case in6 =>
    obtain ⟨u, hw, ha⟩ := Result.andThen_eq_next h
    obtain ⟨-, rfl⟩ := ctlWriteRxThres_eq_next hw
    exact (State.advance_hmem ha).trans rfl
  case in7 =>
    obtain ⟨u, hw, ha⟩ := Result.andThen_eq_next h
    obtain ⟨-, rfl⟩ := ctlWriteTxThres_eq_next hw
    exact (State.advance_hmem ha).trans rfl
  case we2 | rs2 | id2 => exact (State.doReturn_hmem h).trans rfl
  case t1 => exact callForOp_hmem h
  case dr1 =>
    split at h
    · cases h; rfl
    · exact (State.doReturn_hmem h).trans rfl
  case ww2 =>
    split at h
    · exact State.doReturn_hmem h
    · cases h; rfl
  case rd0 => split at h <;> cases h <;> rfl
  all_goals cases h; rfl

/-- An instruction keeps the canonical form: only `HBuf[i] <- POP` writes HMEM, one word (R176). -/
theorem exec_hmem_wf {i : Instr} {s t : State} (hs : s.hmem.wf = true) (h : exec i s = .next t) :
    t.hmem.wf = true := by
  by_cases hi : ∃ j, i = .pop (.hbuf j)
  · obtain ⟨j, rfl⟩ := hi
    obtain ⟨u, hu, ha⟩ := execPop_eq_next h
    obtain ⟨-, rfl⟩ := memWrite_eq_next hu
    rw [State.advance_hmem ha]
    exact Memory.wf_writeWord ((rxdRead_hmem s).symm ▸ hs)
  · obtain ⟨m, -⟩ := exec_frame h
    rw [m.hmem fun j hj => hi ⟨j, hj⟩]
    exact hs

/-- SEQ's turn is an instruction or a local step. -/
theorem seqTurn_hmem_wf {s t : State} (hs : s.hmem.wf = true) (h : seqTurn s = .next t) :
    t.hmem.wf = true := by
  unfold seqTurn at h
  split at h
  · exact exec_hmem_wf hs h
  · rw [localStep_hmem h]
    exact hs

/-- ENG has no access to HMEM. -/
theorem engStep_hmem {s t : State} (h : engStep s = .next t) : t.hmem = s.hmem := by
  obtain rfl | ⟨e, q, -, -, -, rfl⟩ := engStep_eq_next h
  · rfl
  · obtain ⟨w, d, x, hx⟩ := shiftEntry_eq e q s
    rw [hx]
    split <;> rfl

theorem hostTurn_hmem_wf {s t : State} (hs : s.hmem.wf = true) (h : hostTurn s = .next t) :
    t.hmem.wf = true := by
  obtain ⟨-, rfl⟩ | ⟨m, ms, -, hm⟩ := hostTurn_eq_next h
  · exact hs
  obtain hn | ⟨e, -, rfl⟩ := hostMakes_eq_next hm
  · obtain ⟨op, l, d, rfl⟩ | ⟨v, rfl⟩ | ⟨a, v, rfl⟩ := hostMove_eq_next hn
    · exact hs
    · exact hs
    · exact Memory.wf_writeWord hs
  · exact hs

/-- Settles O50, agent by agent: HMEM is written a word at a time, by `HBuf[i] <- POP` and by HOST, and
a word write keeps the canonical form. -/
theorem stepKeepsMemoryCanonical : Obligations.StepKeepsMemoryCanonical := by
  intro s t hs h
  obtain ⟨-, hturn⟩ | ⟨-, hturn⟩ | ⟨-, hturn⟩ := step_cases s <;> rw [hturn] at h
  · exact seqTurn_hmem_wf (s := s.tick) hs h
  · rw [engStep_hmem h]
    exact hs
  · exact hostTurn_hmem_wf (s := s.tick) hs h

/-! ## The receive word (R76) -/

/-- A received byte enters at the top and pushes the earlier ones down. -/
theorem toNat_byte_append_shifted (r : Byte) (w : Word) :
    (r ++ w.extractLsb' 8 24 : BitVec 32).toNat = r.toNat * 2 ^ 24 + w.toNat / 2 ^ 8 := by
  have hlt : w.toNat / 2 ^ 8 < 2 ^ 24 := by have := w.isLt; omega
  rw [BitVec.toNat_append, BitVec.extractLsb'_toNat, Nat.shiftRight_eq_div_pow,
    Nat.mod_eq_of_lt hlt, ← Nat.shiftLeft_add_eq_or_of_lt hlt, Nat.shiftLeft_eq]

/-- The sum of R76: byte `k` of `n` received bytes stands at bit `8*(4-n+k)`. -/
def rxSum (rs : List Byte) : Nat :=
  ((List.range rs.length).map fun k =>
    (rs.getD k 0).toNat * 2 ^ (8 * (4 - rs.length + k))).sum

theorem rxSum_cons {r : Byte} {rs : List Byte} (h : rs.length ≤ 3) :
    rxSum (r :: rs) = r.toNat * 2 ^ (8 * (3 - rs.length)) + rxSum rs := by
  have place (k : Nat) : 3 - rs.length + (k + 1) = 4 - rs.length + k := by omega
  simp [rxSum, List.range_succ_eq_map, Function.comp_def, place]

/-- Receiving `rs` on top of the word `w` shifts `w` down by as many bytes and adds the sum of R76. -/
theorem toNat_foldl_receive {rs : List Byte} (h : rs.length ≤ 4) (w : Word) :
    (rs.foldl (fun w r => r ++ w.extractLsb' 8 24) w).toNat =
      w.toNat / 2 ^ (8 * rs.length) + rxSum rs := by
  induction rs generalizing w with
  | nil => simp [rxSum]
  | cons r rs ih =>
    have hl : rs.length ≤ 3 := Nat.le_of_succ_le_succ h
    have top : 2 ^ 24 = 2 ^ (8 * rs.length) * 2 ^ (8 * (3 - rs.length)) := by
      rw [← Nat.pow_add]; congr 1; omega
    have down : w.toNat / 2 ^ 8 / 2 ^ (8 * rs.length) = w.toNat / 2 ^ (8 * (r :: rs).length) := by
      rw [Nat.div_div_eq_div_mul, ← Nat.pow_add, List.length_cons]; congr 2; omega
    rw [List.foldl_cons, ih (by omega), toNat_byte_append_shifted, top, Nat.mul_left_comm,
      Nat.mul_add_div (Nat.two_pow_pos _), down, rxSum_cons hl]
    omega

/-- Settles O5, by induction on the bytes, from any word below them. -/
theorem receivedBytesFillTheWordFromTheTop : Obligations.ReceivedBytesFillTheWordFromTheTop := by
  intro rs h
  calc (rxWord rs).toNat
    _ = (0 : Word).toNat / 2 ^ (8 * rs.length) + rxSum rs := toNat_foldl_receive h 0
    _ = rxSum rs := by simp

/-! ## The word that POP stores (R71, R176) -/

/-- At an aligned address the word is stored. -/
theorem memWrite_of_aligned {a v : Word} {s : State} (h : aligned a = true) :
    memWrite a v s = .next { s with hmem := s.hmem.writeWord a v } := if_pos h

/-- Settles O25: the popped word is the head of RXQ, and a word write changes its own four bytes only. -/
theorem popStoresOneWord : Obligations.PopStoresOneWord := by
  intro i w q s hwf hq hx ha
  have hstore : storePopped (.hbuf i) (rxdValue s) (rxdRead s) =
      .next { rxdRead s with hmem := s.hmem.writeWord (s.seq.ptr + 4 * i) w } := by
    have hbuf : (rxdRead s).hbuf i = s.seq.ptr + 4 * i := by simp [State.hbuf, hbufAddr]
    rw [rxdValue_of_cons hq, storePopped, hbuf, memWrite_of_aligned ha, rxdRead_hmem]
  have hpop := congrArg (Result.andThen · State.advance) hstore
  rw [Result.andThen_next, State.advance_of_ne (by simpa using hx)] at hpop
  exact ⟨_, hpop, Memory.readWord_writeWord_same hwf, fun _ h => Memory.readByte_writeWord_other h⟩

/-! ## ENG and HOST beside SEQ (R86, R87) -/

/-- With TXQ shorter and RXQ longer under the same thresholds, a flag that is 1 stays 1 (R31). -/
theorem Ctl.flags_mono {c d : Ctl} (htx : d.txThres = c.txThres) (hrx : d.rxThres = c.rxThres)
    (hq : d.txq <:+ c.txq) (hr : c.rxq <+: d.rxq) :
    (c.txnf = true → d.txnf = true) ∧ (c.rxne = true → d.rxne = true) := by
  simp only [Ctl.txnf, Ctl.rxne, decide_eq_true_eq, htx, hrx]
  exact ⟨hq.length_le.trans_lt, fun h => h.trans hr.length_le⟩

/-- ENG takes entries from the front of TXQ, adds words at the end of RXQ and writes no threshold. -/
theorem engStep_queues {s t : State} (h : engStep s = .next t) :
    t.ctl.txThres = s.ctl.txThres ∧ t.ctl.rxThres = s.ctl.rxThres ∧
      t.ctl.txq <:+ s.ctl.txq ∧ s.ctl.rxq <+: t.ctl.rxq := by
  obtain rfl | ⟨e, q, -, -, hq, rfl⟩ := engStep_eq_next h
  · exact ⟨rfl, rfl, List.suffix_rfl, List.prefix_rfl⟩
  obtain ⟨w, d, x, hx⟩ := shiftEntry_eq e q s
  have hs : q <:+ s.ctl.txq := hq ▸ List.suffix_cons e q
  rw [hx]
  split
  · exact ⟨rfl, rfl, hs, List.prefix_append _ _⟩
  · exact ⟨rfl, rfl, hs, List.prefix_rfl⟩

/-- HOST has no access to the controller. -/
theorem hostTurn_ctl {s t : State} (h : hostTurn s = .next t) : t.ctl = s.ctl := by
  obtain ⟨-, rfl⟩ | ⟨m, ms, -, hm⟩ := hostTurn_eq_next h
  · rfl
  obtain hn | ⟨e, -, rfl⟩ := hostMakes_eq_next hm
  · obtain ⟨op, l, d, rfl⟩ | ⟨v, rfl⟩ | ⟨a, v, rfl⟩ := hostMove_eq_next hn <;> rfl
  · rfl

/-- Settles O31: ENG shortens TXQ at its front and lengthens RXQ at its end, and HOST has no access to
the controller. -/
theorem othersKeepReadFlags : Obligations.OthersKeepReadFlags := by
  refine ⟨fun s t h => ?_, fun s t => hostTurn_ctl⟩
  obtain ⟨htx, hrx, hq, hr⟩ := engStep_queues h
  obtain ⟨htxnf, hrxne⟩ := Ctl.flags_mono htx hrx hq hr
  exact ⟨htxnf, hrxne, hq, hr⟩

/-! ## The instruction a step runs (R85, R280, R286) -/

/-- SEQ's turn at a row that is an instruction. -/
theorem seqTurn_of_microInstr {i : Instr} {s : State} (h : microInstr s = some i) :
    seqTurn s = exec i s := by
  simp [seqTurn, h]

/-- HOST's turn with a descriptor pending that decodes. -/
theorem hostTurn_of_command {d0 d1 d2 d3 : Word} {ms : List HostMove} {i : Instr} {s : State}
    (hm : s.host.moves = .command d0 d1 d2 d3 :: ms) (hd : decodeCommand d0 d1 d2 d3 = .ok i) :
    hostTurn s = hostOutcome (s.setMoves ms) (exec i (s.setMoves ms)) := by
  simp [hostTurn, hm, hostMakes, hostMove, hostCommand, hd]

/-- ENG's turn with a shift that is enabled and has a rule. -/
theorem engStep_of_enabled {e : TxEntry} {q : List TxEntry} {s : State} (he : s.engEnabled = true)
    (hr : s.shiftRefusal = none) (hq : s.ctl.txq = e :: q) :
    engStep s = .next (shiftEntry e q s) := by
  simp [engStep, he, hr, hq]

/-- A 1-byte entry sends its byte (R75). -/
theorem sentBytes_w1 (b : Byte) : sentBytes .w1 (b.zeroExtend 32) = [b] := by
  have hb : byteOf 0 (b.zeroExtend 32) = b := by
    simp [byteOf, BitVec.extractLsb'_setWidth_of_le]
  simp [sentBytes, Width.bytes, hb]

/-- The shift of a 1-byte entry is one exchange and the delivery of its answer (R280, R282). -/
theorem shiftEntry_w1 (b : Byte) (q : List TxEntry) (s : State) :
    shiftEntry ⟨.w1, b.zeroExtend 32⟩ q s =
      deliver (rxWord [s.answer b]) ((exchange b s).setCtl { s.ctl with
        txq := q, running := runningAfterShift s.par q s.ctl.running }) := by
  simp only [shiftEntry, sentBytes_w1]
  rfl

/-- A byte that decodes as a wire opcode is what the opcode sends (R122). -/
theorem exec_of_decodeOpcode {b : Byte} {i : Instr} {s : State}
    (h : decodeOpcode s.par b = .ok i) : exec i s = sendOpcode b s := by
  unfold decodeOpcode at h
  split_ifs at h with hb hb hb hb hb hb hb hb hb hb
  iterate 10 · cases h; rw [hb]; rfl
  split at h <;> cases h

theorem Label.readsStatus_iff (l : Label) :
    l.readsStatus = true ↔ l ∈ [Label.x5, .rd5, .rd9, .pp7, .pp12, .dr1, .l2, .l4] := by
  cases l <;> decide

/-- A listed turn is taken first (log 1). -/
theorem State.nextAgent_of_listed {s : State} {a : Agent} {rest : List Agent}
    (h : s.sched.turns = a :: rest) : s.nextAgent = a := by
  simp [State.nextAgent, h]

/-- With no turn listed the mode gives it and moves on. -/
theorem State.tick_mode_of_unlisted {s : State} (h : s.sched.turns = []) :
    s.tick.sched.mode = s.sched.mode.after := by
  simp [State.tick_sched, h]

/-- Settles O45: each agent's turn by its own equation, and the schedule by its definition's cases. -/
theorem stepRunsTheDecodedInstruction : Obligations.StepRunsTheDecodedInstruction := by
  refine ⟨fun d0 d1 d2 d3 ms i s ha hm hd => ?_, fun i s ha hi => ?_,
    fun b q i s ha he hr hq hd => ?_, fun s => ⟨rfl, rfl, ?_, fun a rest h => ?_, fun h => ?_⟩⟩
  · have hstep : step s = hostOutcome (s.tick.setMoves ms) (exec i (s.tick.setMoves ms)) := by
      rw [step, ha]
      exact hostTurn_of_command hm hd
    exact ⟨fun t ht => hstep.trans (congrArg (hostOutcome _) ht),
      fun e hx => hstep.trans (congrArg (hostOutcome _) hx)⟩
  · rw [step, ha]
    exact seqTurn_of_microInstr hi
  · refine ⟨exchange b s.tick, exec_of_decodeOpcode hd, ?_⟩
    rw [step, ha]
    exact (engStep_of_enabled (s := s.tick) he hr hq).trans (congrArg _ (shiftEntry_w1 b q s.tick))
  · simp [State.tick_sched, Label.readsStatus_iff]
  · exact ⟨State.nextAgent_of_listed h, by simp [State.tick_sched, h]⟩
  · have hmode := State.tick_mode_of_unlisted h
    refine ⟨fun hm => ?_, fun hm => ?_, fun a l hm => ?_, fun i hm => ?_⟩ <;>
      simp [hmode, hm, SchedMode.after, State.nextAgent, h, State.seqOrHost]

end Sys2Proof.Machine

/-! SUPPORT. The descriptor and the opcode byte, both ways (R110 to R113, R122): the fields of D0, the
command an operation number names, and the byte a wire opcode is. -/

namespace Sys2Proof

/-! ## D0's fields (Table 30-1) -/

theorem encodeD0_op (op : BitVec 4) (d : Desc) : (encodeD0 op d).extractLsb' 0 4 = op :=
  BitVec.extractLsb'_append_eq_right

theorem encodeD0_fop (op : BitVec 4) (d : Desc) : (encodeD0 op d).extractLsb' 8 8 = d.fop := by
  rw [encodeD0, BitVec.extractLsb'_append_eq_of_le (by decide),
    BitVec.extractLsb'_append_eq_of_le (by decide)]
  exact BitVec.extractLsb'_append_eq_right

theorem encodeD0_arg (op : BitVec 4) (d : Desc) : (encodeD0 op d).extractLsb' 16 16 = d.arg := by
  rw [encodeD0, BitVec.extractLsb'_append_eq_of_le (by decide),
    BitVec.extractLsb'_append_eq_of_le (by decide)]
  exact BitVec.extractLsb'_append_eq_left

theorem descOf_encodeD0 (op : BitVec 4) (d : Desc) :
    descOf (encodeD0 op d) d.addr d.ptr d.count = d := by
  simp [descOf, encodeD0_fop, encodeD0_arg]

/-- With RSV 0 the fields of D0 are all of D0 (R110, R112). -/
theorem encodeD0_descOf {d0 : Word} (h : d0.extractLsb' 4 4 = 0) (d1 d2 d3 : Word) :
    encodeD0 (d0.extractLsb' 0 4) (descOf d0 d1 d2 d3) = d0 := by
  calc encodeD0 (d0.extractLsb' 0 4) (descOf d0 d1 d2 d3)
    _ = d0.extractLsb' 16 16 ++ d0.extractLsb' 8 8 ++ d0.extractLsb' 4 4 ++ d0.extractLsb' 0 4 := by
      rw [h]; rfl
    _ = d0 := by
      rw [BitVec.extractLsb'_append_extractLsb'_eq_extractLsb' (start₁ := 8) (len₁ := 8) rfl,
        BitVec.extractLsb'_append_extractLsb'_eq_extractLsb' (start₁ := 4) (len₁ := 4) rfl]
      exact BitVec.extractLsb'_append_extractLsb'

/-! ## Commands (Table 30-2) -/

/-- The code of the command with operation number `op`. -/
theorem encode_commandOf (p : Params) (op : BitVec 4) (d : Desc) :
    encode p (commandOf op d) = some (encodeCommand op d) := by
  obtain ⟨n, rfl⟩ : ∃ n : Fin 16, op = BitVec.ofFin n := ⟨op.toFin, rfl⟩
  fin_cases n <;> rfl

theorem decodeCommand_of_rsv_zero {d0 : Word} (h : d0.extractLsb' 4 4 = 0) (d1 d2 d3 : Word) :
    decodeCommand d0 d1 d2 d3 = .ok (commandOf (d0.extractLsb' 0 4) (descOf d0 d1 d2 d3)) := if_pos h

theorem decodeCommand_of_rsv_ne_zero {d0 : Word} (h : d0.extractLsb' 4 4 ≠ 0) (d1 d2 d3 : Word) :
    decodeCommand d0 d1 d2 d3 = .error .reservedBits := if_neg h

/-- A descriptor decodes only with RSV 0, and then to the command its OP names (R112). -/
theorem decodeCommand_eq_ok {d0 d1 d2 d3 : Word} {i : Instr}
    (h : decodeCommand d0 d1 d2 d3 = .ok i) :
    d0.extractLsb' 4 4 = 0 ∧ i = commandOf (d0.extractLsb' 0 4) (descOf d0 d1 d2 d3) := by
  by_cases hr : d0.extractLsb' 4 4 = 0
  · rw [decodeCommand_of_rsv_zero hr] at h
    exact ⟨hr, (Except.ok.inj h).symm⟩
  · rw [decodeCommand_of_rsv_ne_zero hr] at h
    cases h

theorem decode_encodeCommand (p : Params) (op : BitVec 4) (d : Desc) :
    decode p (encodeCommand op d) = .ok (commandOf op d) := by
  rw [encodeCommand, decode, decodeCommand_of_rsv_zero (Laws.CodeForm.encodeD0_rsv op d), encodeD0_op,
    descOf_encodeD0]

/-! ## Wire opcodes (Table 30-5) -/

/-- With distinct opcode bytes none is taken for one before it in the decoder's order (R122). -/
theorem decodeOpcode_of_encode {p : Params} {i : Instr} {b : Byte} (hp : p.OpcodesDistinct)
    (h : encode p i = some (.opcode b)) : decodeOpcode p b = .ok i := by
  have later : (wireOpcodes p).Pairwise fun a b => b ≠ a := List.Pairwise.imp Ne.symm hp
  simp only [wireOpcodes, List.pairwise_cons, List.forall_mem_cons] at later
  cases i with
  | wireRdid | wireRdsr | wireRdsr2 | wireWren | wireWrr | wireRead | wirePp | wireSe | wireBe
  | wireCe => cases h; simp [decodeOpcode, later]
  | _ => cases h

/-- An instruction whose code is a descriptor is the command the descriptor's OP names. -/
theorem eq_commandOf_of_encode {p : Params} {i : Instr} {d0 d1 d2 d3 : Word}
    (h : encode p i = some (.descriptor d0 d1 d2 d3)) :
    ∃ op d, .descriptor d0 d1 d2 d3 = encodeCommand op d ∧ i = commandOf op d := by
  cases i with
  | init | read | write | erase | readId | readSr | readSr2 | wren | wrr | reserved9 | reserved10
  | reserved11 | reserved12 | reserved13 | reserved14 | reserved15 =>
    exact ⟨_, _, (Option.some.inj h).symm, rfl⟩
  | _ => cases h

/-- Settles O1, by the kind of the code: a descriptor is its command's, and an opcode byte is no other
opcode's. -/
theorem decodeOfEncodeIsTheInstruction : Obligations.DecodeOfEncodeIsTheInstruction := by
  intro p i c hp h hc
  cases c with
  | descriptor d0 d1 d2 d3 =>
    obtain ⟨op, d, hd, rfl⟩ := eq_commandOf_of_encode h
    rw [hd]
    exact decode_encodeCommand p op d
  | entry w v => exact absurd rfl (hc w v)
  | opcode b => exact decodeOpcode_of_encode hp h

/-- Settles O2: the four words are the fields of the command they decode to. -/
theorem encodeOfDecodeIsTheDescriptor : Obligations.EncodeOfDecodeIsTheDescriptor := by
  intro p d0 d1 d2 d3 i h
  obtain ⟨hr, rfl⟩ := decodeCommand_eq_ok h
  rw [encode_commandOf, encodeCommand, encodeD0_descOf hr]
  rfl

/-- Settles O3, by running the decoder on the written-out words. -/
theorem writtenOutWordsDecode : Obligations.WrittenOutWordsDecode := by
  unfold Obligations.WrittenOutWordsDecode
  decide

end Sys2Proof

/-! SUPPORT. Bytes and bit fields of the operands: address reversal (R117, R119), the bytes of the
transmit entries (R75, R116), the response bytes (R121), pages (R120). -/

namespace Sys2Proof.Machine

/-! ## Bytes (R8) -/

/-- A byte of a value set in a word (R8). -/
theorem byteOf_zeroExtend {w k : Nat} (x : BitVec w) (hk : k < 4) :
    byteOf k (x.zeroExtend 32) = x.extractLsb' (8 * k) 8 :=
  BitVec.extractLsb'_setWidth_of_le (by omega)

/-- The bytes below byte 3 are those of the low 24 bits. -/
theorem byteOf_low24 {k : Nat} (a : Word) (hk : k < 3) :
    (a.extractLsb' 0 24).extractLsb' (8 * k) 8 = byteOf k a :=
  BitVec.extractLsb'_extractLsb'_of_le (by omega)

/-! ## Address reversal (R117, R119) -/

theorem rev24_byte0 (a : Word) : (rev24 a).extractLsb' 0 8 = byteOf 2 a :=
  BitVec.extractLsb'_append_eq_right

theorem rev24_byte1 (a : Word) : (rev24 a).extractLsb' 8 8 = byteOf 1 a := by
  rw [rev24, BitVec.extractLsb'_append_eq_of_le (by decide)]
  exact BitVec.extractLsb'_append_eq_right

theorem rev24_byte2 (a : Word) : (rev24 a).extractLsb' 16 8 = byteOf 0 a := by
  rw [rev24, BitVec.extractLsb'_append_eq_of_le (by decide)]
  exact BitVec.extractLsb'_append_eq_left

/-- Bits 31:24 do not enter (R117). -/
theorem rev24_congr {a b : Word} (h : a.extractLsb' 0 24 = b.extractLsb' 0 24) :
    rev24 a = rev24 b := by
  simp only [rev24, ← byteOf_low24 _ (show 0 < 3 by decide), ← byteOf_low24 _ (show 1 < 3 by decide),
    ← byteOf_low24 _ (show 2 < 3 by decide), h]

theorem opa_byte0 (o : Byte) (a : Word) : byteOf 0 (opa o a) = o :=
  BitVec.extractLsb'_append_eq_right

/-- Above the opcode the word has the bytes of `rev24`. -/
theorem opa_byte_succ (k : Nat) (o : Byte) (a : Word) :
    byteOf (k + 1) (opa o a) = (rev24 a).extractLsb' (8 * k) 8 :=
  BitVec.extractLsb'_append_eq_of_le (by omega)

/-- Settles O4, a byte at a time; the examples are evaluated. -/
theorem addressesAreByteReversed : Obligations.AddressesAreByteReversed :=
  ⟨fun a => ⟨rev24_byte0 a, rev24_byte1 a, rev24_byte2 a, fun _ => rev24_congr⟩,
    fun o a => ⟨opa_byte0 o a, (opa_byte_succ 0 o a).trans (rev24_byte0 a),
      (opa_byte_succ 1 o a).trans (rev24_byte1 a), (opa_byte_succ 2 o a).trans (rev24_byte2 a)⟩,
    by decide⟩

/-! ## Responses (R76, R121) -/

/-- The last byte received stands on top of the others. -/
theorem rxWord_concat (rs : List Byte) (last : Byte) :
    rxWord (rs ++ [last]) = last ++ (rxWord rs).extractLsb' 8 24 := by
  simp [rxWord]

theorem hi8_rxWord_concat (rs : List Byte) (last : Byte) : hi8 (rxWord (rs ++ [last])) = last := by
  rw [rxWord_concat]
  exact BitVec.extractLsb'_append_eq_left

/-- Below the last byte stands what has been received before it, one byte down. -/
theorem extractLsb'_rxWord_concat {start len : Nat} (rs : List Byte) (last : Byte)
    (h : start + len ≤ 24) :
    (rxWord (rs ++ [last])).extractLsb' start len = (rxWord rs).extractLsb' (8 + start) len := by
  rw [rxWord_concat, BitVec.extractLsb'_append_eq_of_add_le h]
  ext j hj
  simp [show start + j < 24 by omega, Nat.add_assoc]

theorem id24_eq_bytes (w : Word) : id24 w = hi8 w ++ byteOf 2 w ++ byteOf 1 w := by
  rw [hi8, byteOf, byteOf, byteOf,
    BitVec.extractLsb'_append_extractLsb'_eq_extractLsb' (start₁ := 8 * 2) (len₁ := 8) rfl,
    BitVec.extractLsb'_append_extractLsb'_eq_extractLsb' (start₁ := 8 * 1) (len₁ := 8) rfl]
  rfl

/-- Two bytes received: the last on top, the first under it, nothing below (R121). -/
theorem rxWord_pair (echo status : Byte) :
    rxWord [echo, status] = status ++ echo ++ (0 : BitVec 16) := by
  have top : hi8 (rxWord [echo]) = echo := hi8_rxWord_concat [] echo
  have low : (rxWord [echo]).extractLsb' 8 16 = 0#16 := extractLsb'_rxWord_concat [] echo (by decide)
  calc rxWord [echo, status]
    _ = status ++ (rxWord [echo]).extractLsb' 8 24 := rxWord_concat [echo] status
    _ = status ++ (hi8 (rxWord [echo]) ++ (rxWord [echo]).extractLsb' 8 16) := by
      rw [hi8, byteOf,
        BitVec.extractLsb'_append_extractLsb'_eq_extractLsb' (start₁ := 8) (len₁ := 16) rfl]
    _ = status ++ (echo ++ 0#16) := by rw [top, low]
    _ = status ++ echo ++ 0#16 := BitVec.append_assoc'

/-- Four bytes received: the last three, the last on top (R121). -/
theorem id24_rxWord (b₀ b₁ b₂ b₃ : Byte) : id24 (rxWord [b₀, b₁, b₂, b₃]) = b₃ ++ b₂ ++ b₁ := by
  have h₃ : hi8 (rxWord [b₀, b₁, b₂, b₃]) = b₃ := hi8_rxWord_concat [b₀, b₁, b₂] b₃
  have h₂ : byteOf 2 (rxWord [b₀, b₁, b₂, b₃]) = b₂ :=
    (extractLsb'_rxWord_concat [b₀, b₁, b₂] b₃ (by decide)).trans (hi8_rxWord_concat [b₀, b₁] b₂)
  have h₁ : byteOf 1 (rxWord [b₀, b₁, b₂, b₃]) = b₁ :=
    (extractLsb'_rxWord_concat [b₀, b₁, b₂] b₃ (by decide)).trans
      ((extractLsb'_rxWord_concat [b₀, b₁] b₂ (by decide)).trans (hi8_rxWord_concat [b₀] b₁))
  rw [id24_eq_bytes, h₃, h₂, h₁]

/-- Settles O6: the last byte received on top, and the words of the two short frames. -/
theorem responsesAreExtracted : Obligations.ResponsesAreExtracted :=
  ⟨fun _ => ⟨rfl, rfl⟩, fun rs last _ => hi8_rxWord_concat rs last, rxWord_pair,
    fun r => hi8_rxWord_concat [] r, id24_rxWord⟩

/-! ## Pages (R120) -/

/-- `count[31:6]` is the quotient, `count[5:0]` the remainder. -/
theorem toNat_chunksOf (count : Word) :
    (chunksOf count).toNat = count.toNat / 64 + (if count.toNat % 64 = 0 then 0 else 1) := by
  have hlt := count.isLt
  have low : count.extractLsb' 0 6 = 0 ↔ count.toNat % 64 = 0 := by
    simp [← BitVec.toNat_inj]
  have high : (count >>> 6).toNat = count.toNat / 64 := by simp [Nat.shiftRight_eq_div_pow]
  unfold chunksOf
  simp only [low]
  rw [BitVec.toNat_add, high]
  split
  · simp; omega
  · simp; omega

theorem toNat_pageBase {i : Word} (h : i.toNat < 2 ^ 26) : (pageBase i).toNat = 64 * i.toNat := by
  rw [pageBase, BitVec.toNat_mul]
  exact Nat.mod_eq_of_lt (by simp; omega)

theorem toNat_pageAddr (addr i : Word) :
    (pageAddr addr i).toNat = (addr.toNat + 256 * i.toNat) % 2 ^ 32 := by
  simp [pageAddr]

/-- Settles O7: the bounds follow from the exact quotient and remainder. -/
theorem pagesAreCountedExactly : Obligations.PagesAreCountedExactly := by
  refine ⟨fun count => ?_, toNat_pageAddr, fun o a b h => by rw [opa, opa, rev24_congr h],
    fun i => toNat_pageBase⟩
  have hlt := count.isLt
  rw [toNat_chunksOf]
  split <;> omega

end Sys2Proof.Machine

/-! SUPPORT. What a command meets: the causes of refusal in Table 60-1's order, and the accept step (R113,
R114, R306). -/

namespace Sys2Proof.Machine

/-! ## The causes of refusal (R113) -/

theorem aligned_eq_false_iff {a : Word} : aligned a = false ↔ a.extractLsb' 0 2 ≠ 0 := by
  simp [aligned]

theorem State.transferRefusal_orElse_elim {α : Type} (s : State) (r : Option Refusal) (x : α)
    (f : Refusal → α) :
    (s.transferRefusal <|> r).elim x f =
      if s.seq.shadow = none then f .notInitialised
      else if s.seq.manual = false then f .autoMode
      else r.elim x f := by
  unfold State.transferRefusal
  split_ifs <;> rfl

theorem Desc.ptrRefusal_elim {α : Type} (d : Desc) (x : α) (f : Refusal → α) :
    (Desc.ptrRefusal d).elim x f =
      if d.count ≠ 0 ∧ aligned d.ptr = false then f .misalignedPtr else x := by
  unfold Desc.ptrRefusal
  split_ifs <;> rfl

theorem acceptUnless_eq (r : Option Refusal) (op : BitVec 4) (l : Label) (d : Desc) (s : State) :
    acceptUnless r op l d s =
      if s.seq.busy = true ∨ s.seq.ust ≠ .idle then .refused .busy
      else r.elim (.next (s.accepted op l d)) .refused := by
  by_cases h : s.seq.busy = true ∨ s.seq.ust ≠ .idle
  · have hs : s.accepting = false := by simpa [State.accepting, imp_iff_not_or] using h
    simp [acceptUnless, hs, h]
  · have hs : s.accepting = true := by simpa [State.accepting] using h
    rw [if_neg h]
    cases r with
    | none => exact if_pos hs
    | some e => exact if_pos hs

/-! ## One chain for all operation numbers (Table 30-2, Table 60-1) -/

/-- The cause of refusal of the command with operation number `op`, HOST being allowed to move: INIT has
none, and PTR is looked at by READ and WRITE only (R113). -/
def commandRefusal (op : BitVec 4) (d : Desc) (s : State) : Option Refusal :=
  if op = 0 then none
  else if op = 1 ∨ op = 2 then s.transferRefusal <|> Desc.ptrRefusal d
  else s.transferRefusal

/-- The first step of Table 30-2. -/
def firstStep (op : BitVec 4) : Label :=
  [Label.in1, .rd0, .wt1, .er1, .t1, .t1, .t1, .t1, .wr1].getD op.toNat .idle

theorem exec_commandOf_of_le {op : BitVec 4} (h : op.toNat ≤ 8) (d : Desc) (s : State) :
    exec (commandOf op d) s = acceptUnless (commandRefusal op d s) op (firstStep op) d s := by
  have hop : op ∈ ([0, 1, 2, 3, 4, 5, 6, 7, 8] : List (BitVec 4)) := by decide +revert
  fin_cases hop <;> rfl

theorem exec_commandOf_of_ge {op : BitVec 4} (h : 9 ≤ op.toNat) (d : Desc) (s : State) :
    exec (commandOf op d) s = .refused .reservedOp := by
  have hop : op ∈ ([9, 10, 11, 12, 13, 14, 15] : List (BitVec 4)) := by decide +revert
  fin_cases hop <;> rfl

theorem commandRefusal_elim {α : Type} (op : BitVec 4) (d : Desc) (s : State) (x : α)
    (f : Refusal → α) :
    (commandRefusal op d s).elim x f =
      if op ≠ 0 ∧ s.seq.shadow = none then f .notInitialised
      else if op ≠ 0 ∧ s.seq.manual = false then f .autoMode
      else if (op = 1 ∨ op = 2) ∧ d.count ≠ 0 ∧ aligned d.ptr = false then f .misalignedPtr
      else x := by
  by_cases h0 : op = 0
  · subst h0
    rfl
  simp only [commandRefusal, ne_eq, h0, not_false_eq_true, true_and, if_false]
  by_cases h12 : op = 1 ∨ op = 2
  · simp only [h12, if_true, true_and, State.transferRefusal_orElse_elim, Desc.ptrRefusal_elim, ne_eq]
  · have alone : (s.transferRefusal <|> none) = s.transferRefusal := by
      cases s.transferRefusal <;> rfl
    simp only [h12, false_and, if_false]
    rw [← alone]
    exact State.transferRefusal_orElse_elim s none x f

/-- The command with operation number `op`: refused for the first cause of Table 60-1 that applies, else
the accept step. -/
theorem exec_commandOf (op : BitVec 4) (d : Desc) (s : State) :
    exec (commandOf op d) s =
      if 9 ≤ op.toNat then .refused .reservedOp
      else if s.seq.busy = true ∨ s.seq.ust ≠ .idle then .refused .busy
      else if op ≠ 0 ∧ s.seq.shadow = none then .refused .notInitialised
      else if op ≠ 0 ∧ s.seq.manual = false then .refused .autoMode
      else if (op = 1 ∨ op = 2) ∧ d.count ≠ 0 ∧ aligned d.ptr = false then .refused .misalignedPtr
      else .next (s.accepted op (firstStep op) d) := by
  by_cases h : 9 ≤ op.toNat
  · rw [if_pos h, exec_commandOf_of_ge h]
  · rw [if_neg h, exec_commandOf_of_le (by omega), acceptUnless_eq, commandRefusal_elim]

/-- Settles O11: a descriptor with RSV 0 is the command of its OP, and Table 60-1 is that command's. -/
theorem hostCommandIsRefusedOrAccepted : Obligations.HostCommandIsRefusedOrAccepted := by
  intro d0 d1 d2 d3 s op
  by_cases hr : d0.extractLsb' 4 4 = 0
  · rw [hostCommand, decodeCommand_of_rsv_zero hr]
    dsimp only
    rw [exec_commandOf]
    simp only [hr, ne_eq, not_true_eq_false, false_or, aligned_eq_false_iff]
    rfl
  · rw [hostCommand, decodeCommand_of_rsv_ne_zero hr, if_pos (.inl hr)]

/-- Settles O12: INIT has no cause but `busy`. -/
theorem initIsAcceptedWhenIdle : Obligations.InitIsAcceptedWhenIdle := by
  intro d s hi hb
  calc exec (.init d) s
    _ = _ := exec_commandOf 0 d s
    _ = .next (s.accepted 0 .in1 d) := by simp [hi, hb, firstStep]

/-- Settles O13: after `init(true)` only a misaligned PTR is left as a cause. -/
theorem transferCommandsAreAccepted : Obligations.TransferCommandsAreAccepted := by
  intro d s hi hb hs hm
  have accepted {op : BitVec 4} (h8 : op.toNat < 9)
      (hp : (d.count ≠ 0 → aligned d.ptr = true) ∨ ¬(op = 1 ∨ op = 2)) :
      exec (commandOf op d) s = .next (s.accepted op (firstStep op) d) := by
    have no_misaligned : ¬((op = 1 ∨ op = 2) ∧ d.count ≠ 0 ∧ aligned d.ptr = false) := by
      rintro ⟨h12, hc, ha⟩
      obtain hp | hp := hp
      · simp [hp hc] at ha
      · exact hp h12
    rw [exec_commandOf, if_neg no_misaligned]
    simp [hi, hb, hs, hm, h8]
  have plain (op : BitVec 4) (h8 : op.toNat < 9) (h12 : ¬(op = 1 ∨ op = 2)) :
      exec (commandOf op d) s = .next (s.accepted op (firstStep op) d) := accepted h8 (.inr h12)
  exact ⟨fun hp => ⟨accepted (op := 1) (by decide) (.inl hp), accepted (op := 2) (by decide) (.inl hp)⟩,
    plain 3 (by decide) (by decide), plain 4 (by decide) (by decide), plain 5 (by decide) (by decide),
    plain 6 (by decide) (by decide), plain 7 (by decide) (by decide), plain 8 (by decide) (by decide)⟩

theorem eq_commandOf_of_mem {c : Desc → Instr} {ops : List (BitVec 4)} {P : BitVec 4 → Prop}
    (hc : c ∈ ops.map commandOf) (h : ∀ op ∈ ops, P op) : ∃ op, P op ∧ c = commandOf op := by
  obtain ⟨op, hop, rfl⟩ := List.mem_map.1 hc
  exact ⟨op, h op hop, rfl⟩

/-- Settles O14, the commands being those of the operation numbers 0 to 8. -/
theorem commandsAreRefusedUnlessReady : Obligations.CommandsAreRefusedUnlessReady := by
  refine ⟨fun c hc d s hbusy => ?_, fun d s hi hb => ?_⟩
  · obtain ⟨op, h8, rfl⟩ := eq_commandOf_of_mem (ops := [0, 1, 2, 3, 4, 5, 6, 7, 8])
      (P := fun op => ¬ 9 ≤ op.toNat) hc (by decide)
    rw [exec_commandOf, if_neg h8, if_pos hbusy]
  have idle : ¬(s.seq.busy = true ∨ s.seq.ust ≠ .idle) := by simp [hi, hb]
  refine ⟨fun c hc => ?_, fun c hc hs hm hn ha => ?_⟩
  · obtain ⟨op, ⟨h8, h0⟩, rfl⟩ := eq_commandOf_of_mem (ops := [1, 2, 3, 4, 5, 6, 7, 8])
      (P := fun op => ¬ 9 ≤ op.toNat ∧ op ≠ 0) hc (by decide)
    refine ⟨fun hs => ?_, fun hs hm => ?_⟩
    · rw [exec_commandOf, if_neg h8, if_neg idle, if_pos ⟨h0, hs⟩]
    · rw [exec_commandOf, if_neg h8, if_neg idle, if_neg (by simp [hs]), if_pos ⟨h0, hm⟩]
  · obtain ⟨op, ⟨h8, h12⟩, rfl⟩ := eq_commandOf_of_mem (ops := [1, 2])
      (P := fun op => ¬ 9 ≤ op.toNat ∧ (op = 1 ∨ op = 2)) hc (by decide)
    rw [exec_commandOf, if_neg h8, if_neg idle, if_neg (by simp [hs]), if_neg (by simp [hm]),
      if_pos ⟨h12, hn, ha⟩]

/-- Settles O15: the first cause of Table 60-1 looks at OP alone. -/
theorem reservedOperationsAreRefused : Obligations.ReservedOperationsAreRefused := by
  intro c hc d s
  obtain ⟨op, h9, rfl⟩ := eq_commandOf_of_mem (ops := [9, 10, 11, 12, 13, 14, 15])
    (P := fun op => 9 ≤ op.toNat) hc (by decide)
  exact exec_commandOf_of_ge h9 d s

end Sys2Proof.Machine

/-! SUPPORT. The transmit entries: one PUSH each, and the bytes its value sends (R75, R116, Table 30-4). -/

namespace Sys2Proof.Machine

/-! ## One entry in TXQ (R33, R175) -/

/-- With room in TXQ a PUSH of a value that fits its port appends it whole. -/
theorem pushEntry_of_room {w : Width} {v : Word} {s : State} (hx : s.seq.ust ≠ .x7)
    (hroom : s.ctl.txq.length < s.par.txDepth) (hv : truncateTo w v = v) :
    pushEntry w v s = .next (s.pushed w v) := by
  have hwrite : txdWrite w v s =
      (s.setCtl { s.ctl with txq := s.ctl.txq ++ [⟨w, v⟩] }).record (.wTxd w v) := by
    rw [txdWrite, hv, txAppend_of_room _ hroom]
  rw [pushEntry, hwrite]
  exact State.advance_of_ne hx

theorem sentBytes_eq_w2 (v : Word) : sentBytes .w2 v = [byteOf 0 v, byteOf 1 v] := rfl

theorem sentBytes_eq_w3 (v : Word) : sentBytes .w3 v = [byteOf 0 v, byteOf 1 v, byteOf 2 v] := rfl

theorem sentBytes_eq_w4 (v : Word) :
    sentBytes .w4 v = [byteOf 0 v, byteOf 1 v, byteOf 2 v, byteOf 3 v] := rfl

/-! ## The bytes of each format (Table 30-4) -/

theorem byteOf_zero_zeroExtend (o : Byte) : byteOf 0 (o.zeroExtend 32) = o := by
  rw [byteOf_zeroExtend o (by decide)]
  exact BitVec.extractLsb'_eq_self

/-- Above a value set in a word the bytes are 0. -/
theorem byteOf_zeroExtend_eq_zero {w k : Nat} (x : BitVec w) (hw : w ≤ 8 * k) :
    byteOf k (x.zeroExtend 32) = 0 := by
  ext j hj
  have high : x.getLsbD (8 * k + j) = false := BitVec.getLsbD_of_ge x _ (by omega)
  simp [byteOf, high]

theorem sentBytes_op2Word (o : Byte) : sentBytes .w2 (op2Word o) = [o, 0] := by
  rw [sentBytes_eq_w2, op2Word, byteOf_zero_zeroExtend, byteOf_zeroExtend_eq_zero o (by decide)]

theorem sentBytes_opz4Word (o : Byte) : sentBytes .w4 (opz4Word o) = [o, 0, 0, 0] := by
  rw [sentBytes_eq_w4, opz4Word, byteOf_zero_zeroExtend, byteOf_zeroExtend_eq_zero o (by decide),
    byteOf_zeroExtend_eq_zero o (by decide), byteOf_zeroExtend_eq_zero o (by decide)]

theorem sentBytes_opr3Word (o : Byte) (arg : BitVec 16) :
    sentBytes .w3 (opr3Word o arg) = [o, arg.extractLsb' 0 8, arg.extractLsb' 8 8] := by
  have b₀ : byteOf 0 (opr3Word o arg) = o :=
    (byteOf_zeroExtend _ (by decide)).trans BitVec.extractLsb'_append_eq_right
  have b₁ : byteOf 1 (opr3Word o arg) = arg.extractLsb' 0 8 :=
    (byteOf_zeroExtend _ (by decide)).trans (BitVec.extractLsb'_append_eq_of_le (by decide))
  have b₂ : byteOf 2 (opr3Word o arg) = arg.extractLsb' 8 8 :=
    (byteOf_zeroExtend _ (by decide)).trans (BitVec.extractLsb'_append_eq_of_le (by decide))
  rw [sentBytes_eq_w3, b₀, b₁, b₂]

/-- The three bytes of a reversed address, the high one first (R117). -/
theorem sentBytes_adr3Word (a : Word) :
    sentBytes .w3 (adr3Word a) =
      [a.extractLsb' 16 8, a.extractLsb' 8 8, a.extractLsb' 0 8] := by
  rw [sentBytes_eq_w3, adr3Word, byteOf_zeroExtend _ (by decide), byteOf_zeroExtend _ (by decide),
    byteOf_zeroExtend _ (by decide), rev24_byte0, rev24_byte1, rev24_byte2]
  rfl

theorem sentBytes_adr4Word (a : Word) :
    sentBytes .w4 (adr4Word a) =
      [a.extractLsb' 16 8, a.extractLsb' 8 8, a.extractLsb' 0 8, 0] := by
  have low : sentBytes .w4 (adr4Word a) = sentBytes .w3 (adr3Word a) ++ [byteOf 3 (adr4Word a)] := rfl
  rw [low, sentBytes_adr3Word, adr4Word, byteOf_zeroExtend_eq_zero _ (by decide)]
  rfl

theorem sentBytes_opa (o : Byte) (a : Word) :
    sentBytes .w4 (opa o a) =
      [o, a.extractLsb' 16 8, a.extractLsb' 8 8, a.extractLsb' 0 8] := by
  rw [sentBytes_eq_w4, opa_byte0, opa_byte_succ, opa_byte_succ, opa_byte_succ, rev24_byte0,
    rev24_byte1, rev24_byte2]
  rfl

/-- At an aligned address DAT4 is the PUSH of the buffer word (R71, R116). -/
theorem execDat4_of_aligned {i : Word} {s : State} (h : aligned (s.hbuf i) = true) :
    execDat4 i s = pushEntry .w4 (s.hmem.readWord (s.hbuf i)) s := if_pos h

/-- Settles O22, format by format: the value fits its port, its bytes are those of Table 30-4, and the
entry is one PUSH. -/
theorem transmitEntriesCarryTheirBytes : Obligations.TransmitEntriesCarryTheirBytes := by
  intro o arg a i s hx hroom
  have push {w : Width} {v : Word} (hv : truncateTo w v = v) :
      pushEntry w v s = .next (s.pushed w v) := pushEntry_of_room hx hroom hv
  have push4 (v : Word) : pushEntry .w4 v s = .next (s.pushed .w4 v) := push rfl
  have fits1 : truncateTo .w1 (op1Word o) = op1Word o := Laws.CodeForm.truncateTo_zeroExtend_1 o
  have fits2 : truncateTo .w2 (op2Word o) = op2Word o := Laws.CodeForm.truncateTo_zeroExtend_2 o
  have fits3 (x : BitVec 24) : truncateTo .w3 (x.zeroExtend 32) = x.zeroExtend 32 :=
    Laws.CodeForm.truncateTo_zeroExtend_3 x
  exact ⟨⟨op1Word o, fits1, sentBytes_w1 o, push fits1⟩,
    ⟨op2Word o, fits2, sentBytes_op2Word o, push fits2⟩,
    ⟨opr3Word o arg, fits3 _, sentBytes_opr3Word o arg, push (fits3 _)⟩,
    ⟨adr3Word a, fits3 _, sentBytes_adr3Word a, push (fits3 _)⟩,
    ⟨adr4Word a, sentBytes_adr4Word a, push4 _⟩, ⟨opa o a, sentBytes_opa o a, push4 _⟩,
    ⟨opz4Word o, sentBytes_opz4Word o, push4 _⟩,
    fun ha => (execDat4_of_aligned ha).trans (push4 _), push4 _⟩

end Sys2Proof.Machine

/-! SUPPORT. The end of a command: the rows that write `result` or `ret`, and DONE (R115, Table 30-3). -/

namespace Sys2Proof.Machine

/-- SEQ's turn at a row that is no instruction. -/
theorem seqTurn_of_no_microInstr {s : State} (h : microInstr s = none) : seqTurn s = localStep s := by
  simp [seqTurn, h]

theorem toNat_hi8 (w : Word) : ((hi8 w).zeroExtend 32).toNat = w.toNat / 2 ^ 24 := by
  have hlt := w.isLt
  simp [hi8, byteOf, Nat.shiftRight_eq_div_pow]
  omega

theorem toNat_id24 (w : Word) : ((id24 w).zeroExtend 32).toNat = w.toNat / 2 ^ 8 := by
  have hlt := w.isLt
  simp [id24, Nat.shiftRight_eq_div_pow]
  omega

/-- Settles O43, row by row: IDLE again, `result` written, or `ret` written for the wrapper. -/
theorem commandsCompleteWithTheirResult : Obligations.CommandsCompleteWithTheirResult := by
  intro s
  have turn {r : Result} (hm : microInstr s = none) (hl : localStep s = r) : seqTurn s = r :=
    (seqTurn_of_no_microInstr hm).trans hl
  have ends {v : Word} (hm : microInstr s = none) (hl : localStep s = .next (s.finish v)) :
      seqTurn s = .next (s.setSeq { s.seq with result := v, ust := .done }) := turn hm hl
  have returns {v : Word} (hm : microInstr s = none) (hl : localStep s = returnValue v s) :
      seqTurn s = (s.setSeq { s.seq with ret := v }).doReturn := turn hm hl
  refine ⟨fun h => ?done, fun h => ?in11, fun h => ?zero, fun h => ?t2, fun h => ?rd17, fun h => ?hi8,
    fun h => ?id24⟩
  case done => exact turn (by simp [microInstr, h]) (by simp [localStep, h])
  case in11 =>
    exact turn (r := .next ((ctlWriteEn true s).finish 0)) (by simp [microInstr, h])
      (by simp [localStep, h])
  case zero =>
    obtain h | h | ⟨h, hc⟩ | ⟨h, hc⟩ := h
    · exact ends (by simp [microInstr, h]) (by simp [localStep, h])
    · exact ends (by simp [microInstr, h]) (by simp [localStep, h])
    · exact ends (by simp [microInstr, h, hc]) (by simp [localStep, h])
    · exact ends (by simp [microInstr, h]) (by simp [localStep, h, hc])
  case t2 => exact ends (by simp [microInstr, h]) (by simp [localStep, h])
  case rd17 => exact ends (by simp [microInstr, h]) (by simp [localStep, h])
  case hi8 =>
    refine ⟨_, toNat_hi8 s.seq.tmp, ?_⟩
    obtain h | h := h
    · exact returns (by simp [microInstr, h]) (by simp [localStep, h])
    · exact returns (by simp [microInstr, h]) (by simp [localStep, h])
  case id24 =>
    exact ⟨_, toNat_id24 s.seq.tmp, returns (by simp [microInstr, h]) (by simp [localStep, h])⟩

end Sys2Proof.Machine

/-! SUPPORT. INIT (40_init_config.md): the reset pulse (R153), the merge of the configuration (R151, R152),
its rows as single turns of SEQ, and the twelve of them as one run (Table 40-2, R156). -/

namespace Sys2Proof.Machine

/-! ## The reset pulse (R153) -/

theorem platSetReset_of_unlocked {s : State} (h : s.plat.locked = false) :
    platSetReset s =
      (resetPulse (s.setPlat { s.plat with rst := true })).record (.wRstSet s.par.rstMask) := by
  simp [platSetReset, h]

theorem platSetReset_of_locked {s : State} (h : s.plat.locked = true) :
    platSetReset s = s.record (.wRstSet s.par.rstMask) := by
  simp [platSetReset, h]

theorem platClearReset_of_unlocked {s : State} (h : s.plat.locked = false) :
    platClearReset s =
      (s.setPlat { s.plat with rst := false }).record (.wRstClear s.par.rstMask) := by
  simp [platClearReset, h]

theorem platClearReset_of_locked {s : State} (h : s.plat.locked = true) :
    platClearReset s = s.record (.wRstClear s.par.rstMask) := by
  simp [platClearReset, h]

@[simp] theorem platSetReset_seq (s : State) : (platSetReset s).seq = s.seq := by
  by_cases h : s.plat.locked = true <;> simp [platSetReset, h]

@[simp] theorem platClearReset_seq (s : State) : (platClearReset s).seq = s.seq := by
  by_cases h : s.plat.locked = true <;> simp [platClearReset, h]

/-- Deasserting chip-select is an edge exactly when it was asserted (R40). -/
theorem csEvents_deasserted (l : CsLevel) :
    csEvents l .deasserted = if l = .asserted then [.cs0] else [] := by
  cases l <;> rfl

/-- Settles O32: the pulse and the locked case are the two branches of each platform access. -/
theorem resetPulseClearsTheController : Obligations.ResetPulseClearsTheController := by
  refine fun s => ⟨fun h => ⟨_, _, _, _, platSetReset_of_unlocked h, fun hc => ?_⟩,
    platSetReset_of_locked, platClearReset_of_unlocked, platClearReset_of_locked⟩
  rw [← csEvents_deasserted, ← hc]
  rfl

/-! ## The configuration value (R151, R152) -/

/-- Deasserting chip-select ends a transaction under `continue`, if chip-select was asserted (R281). -/
theorem runningAfterCs_deasserted (p : Params) (l : CsLevel) (r : Bool) :
    runningAfterCs p l .deasserted r =
      if p.emptyPolicy = .continue ∧ l = .asserted then false else r := by
  cases hp : p.emptyPolicy <;> cases l <;> simp [runningAfterCs, hp]

/-- The merged value deasserts chip-select, whatever it is merged into. -/
theorem merge_cfgval_cslvl (old : CtlConfig) (p : Params) (m : Bool) :
    (merge old (cfgval p m)).cslvl = .deasserted := by
  simp [merge, cfgval]

/-- Merged into the default CFG_RESET, all of whose fields are 0 but CSLVL, the computed value stays
(R152). -/
theorem merge_cfgReset_cfgval (p : Params) (m : Bool) :
    merge Config.cfgReset (cfgval p m) = cfgval p m := by
  simp [merge, cfgval, Config.cfgReset]

/-! ## INIT's rows (Table 40-2) -/

/-- The rows of INIT that are an access and go on to the next row. -/
def Label.initRows : List Label := [.in1, .in2, .in3, .in4, .in5, .in6, .in7, .in8, .in9, .in10]

theorem microInstr_of_initRow {s : State} (h : s.seq.ust ∈ Label.initRows) : microInstr s = none := by
  cases hu : s.seq.ust with
  | in1 | in2 | in3 | in4 | in5 | in6 | in7 | in8 | in9 | in10 => simp [microInstr, hu]
  | _ => simp [hu, Label.initRows] at h

theorem Seq.afterRow_of_initRow {q : Seq} (h : q.ust ∈ Label.initRows) :
    q.afterRow = { q with ust := q.ust.succ } := by
  cases hu : q.ust with
  | in1 | in2 | in3 | in4 | in5 | in6 | in7 | in8 | in9 | in10 => simp [Seq.afterRow, hu]
  | _ => simp [hu, Label.initRows] at h

section
variable {s : State}

/-- Such a row makes its access `u` and goes on. -/
theorem seqTurn_of_initRow {l : Label} {u : State} (hl : l ∈ Label.initRows) (h : s.seq.ust = l)
    (hrow : localStep s = u.advance) (hu : u.seq.ust = l) : seqTurn s = .next (u.goto l.succ) := by
  have hx : u.seq.ust ≠ .x7 := fun hx => by simp [← hu, hx, Label.initRows] at hl
  rw [seqTurn_of_no_microInstr (microInstr_of_initRow (h ▸ hl)), hrow, State.advance_of_ne hx,
    Seq.afterRow_of_initRow (hu ▸ hl), hu, State.goto]

theorem seqTurn_in1 (h : s.seq.ust = .in1) : seqTurn s = .next ((ctlWriteEn false s).goto .in2) :=
  seqTurn_of_initRow (by decide) h (by simp [localStep, h]) h

theorem seqTurn_in2 (h : s.seq.ust = .in2) : seqTurn s = .next ((platUnlock s).goto .in3) :=
  seqTurn_of_initRow (by decide) h (by simp [localStep, h]) h

theorem seqTurn_in3 (h : s.seq.ust = .in3) : seqTurn s = .next ((platSetReset s).goto .in4) :=
  seqTurn_of_initRow (by decide) h (by simp [localStep, h]) (by rw [platSetReset_seq, h])

theorem seqTurn_in4 (h : s.seq.ust = .in4) : seqTurn s = .next ((platClearReset s).goto .in5) :=
  seqTurn_of_initRow (by decide) h (by simp [localStep, h]) (by rw [platClearReset_seq, h])

theorem seqTurn_in5 (h : s.seq.ust = .in5) : seqTurn s = .next ((platLock s).goto .in6) :=
  seqTurn_of_initRow (by decide) h (by simp [localStep, h]) h

/-- A threshold of 1 is legal (R32). -/
theorem seqTurn_in6 (h : s.seq.ust = .in6) (hd : 1 ≤ s.par.rxDepth) :
    seqTurn s = .next (((s.setCtl { s.ctl with rxThres := 1 }).record (.wRxThres 1)).goto .in7) := by
  have hw := ctlWriteRxThres_of_legal (s := s) ⟨Nat.le_refl 1, hd⟩
  exact seqTurn_of_initRow (by decide) h (by simp [localStep, h, Config.thresInit, hw]) h

theorem seqTurn_in7 (h : s.seq.ust = .in7) (hd : 1 ≤ s.par.txDepth) :
    seqTurn s = .next (((s.setCtl { s.ctl with txThres := 1 }).record (.wTxThres 1)).goto .in8) := by
  have hw := ctlWriteTxThres_of_legal (s := s) ⟨Nat.le_refl 1, hd⟩
  exact seqTurn_of_initRow (by decide) h (by simp [localStep, h, Config.thresInit, hw]) h

theorem seqTurn_in8 (h : s.seq.ust = .in8) : seqTurn s = .next ((ctlWriteLinear false s).goto .in9) :=
  seqTurn_of_initRow (by decide) h (by simp [localStep, h]) h

theorem seqTurn_in9 (h : s.seq.ust = .in9) : seqTurn s = .next ((initReadConfig s).goto .in10) :=
  seqTurn_of_initRow (by decide) h (by simp [localStep, h]) h

theorem seqTurn_in10 (h : s.seq.ust = .in10) : seqTurn s = .next ((initWriteConfig s).goto .in11) :=
  seqTurn_of_initRow (by decide) h (by simp [localStep, h]) h

theorem seqTurn_in11 (h : s.seq.ust = .in11) : seqTurn s = .next ((ctlWriteEn true s).finish 0) := by
  obtain ⟨-, hin11, -⟩ := commandsCompleteWithTheirResult s
  exact hin11 h

theorem seqTurn_done (h : s.seq.ust = .done) :
    seqTurn s = .next (s.setSeq { s.seq with busy := false, ust := .idle }) := by
  obtain ⟨hdone, -⟩ := commandsCompleteWithTheirResult s
  exact hdone h

end

/-- IN10, written out: the merged value goes to `shadow` and to CONFIG, with the edge of chip-select. -/
theorem initWriteConfig_eq (s : State) :
    let c := merge s.seq.old (cfgval s.par s.seq.manualMode)
    initWriteConfig s = { s with
      seq := { s.seq with shadow := some c, manual := s.seq.manualMode }
      ctl := { s.ctl with
        config := c
        running :=
          if s.par.emptyPolicy = .continue ∧ s.ctl.config.cslvl = .asserted then false
          else s.ctl.running }
      wire := s.wire ++ (if s.ctl.config.cslvl = .asserted then [.cs0] else [])
      regTrace := s.regTrace ++ [.wConfig c false] } := by
  intro c
  rw [← runningAfterCs_deasserted, ← csEvents_deasserted,
    ← merge_cfgval_cslvl s.seq.old s.par s.seq.manualMode]
  rfl

/-- Settles O33: IN9 and IN10 by their rows, and the merged value field by field. -/
theorem configurationIsMergedIntoTheOldOne : Obligations.ConfigurationIsMergedIntoTheOldOne := by
  refine fun s => ⟨seqTurn_in9, fun h => ⟨merge s.seq.old (cfgval s.par s.seq.manualMode), ?_, ?_⟩⟩
  · rw [seqTurn_in10 h, initWriteConfig_eq]
    rfl
  · simp [merge, cfgval, Seq.manualMode, BitVec.getLsbD_or]

/-! ## SEQ's turns alone -/

/-- `n` turns of SEQ, no other agent moving. -/
def seqTurns : Nat → State → Result
  | 0, s => .next s
  | n + 1, s => Result.andThen (seqTurn s) (seqTurns n)

theorem seqTurns_succ {n : Nat} {s u : State} (h : seqTurn s = .next u) :
    seqTurns (n + 1) s = seqTurns n u := by
  rw [seqTurns, h, Result.andThen_next]

theorem blind_seqTurns (n : Nat) : Blind (seqTurns n) := by
  induction n with
  | zero => exact fun _ _ _ => rfl
  | succ n ih => exact blind_seqTurn.andThen ih

/-- SEQ's turn in a step, the schedule going on (R85). -/
theorem step_of_seq {s : State} (h : s.nextAgent = .seq) :
    step s = Result.driven (seqTurn s) s.tick.sched s.host.moves := by
  rw [step, h]
  exact blind_seqTurn s _ _

/-- A run's first step, then the rest of the run. -/
theorem run_succ_of_step {M : Host.Core} {n : Nat} {s u : M.State} (h : M.step s = .next u) :
    M.run (n + 1) s = M.run n u := by
  rw [Host.Core.run, h]

/-- With `n` turns of SEQ listed, `n` steps are those turns, but for what is left of the schedule. -/
theorem run_of_seqTurns {n : Nat} {s t : State} {rest : List Agent}
    (hs : s.sched.turns = List.replicate n .seq ++ rest) (h : seqTurns n s = .next t) :
    ∃ x ms, Host.Core.run Sys2Proof.core n s = .next (t.driven x ms) := by
  induction n generalizing s t with
  | zero =>
    cases h
    exact ⟨s.sched, s.host.moves, rfl⟩
  | succ n ih =>
    obtain ⟨u, hu, ht⟩ := Result.andThen_eq_next h
    have hstep : step s = .next (u.driven s.tick.sched s.host.moves) := by
      rw [step_of_seq (State.nextAgent_of_listed hs), hu, Result.driven_next]
    have hturns : (u.driven s.tick.sched s.host.moves).sched.turns =
        List.replicate n .seq ++ rest := by
      simp [State.tick_sched, hs, List.replicate_succ]
    have hrest := blind_seqTurns n u s.tick.sched s.host.moves
    rw [ht, Result.driven_next] at hrest
    obtain ⟨x, ms, hrun⟩ := ih hturns hrest
    exact ⟨x, ms, (run_succ_of_step (M := Sys2Proof.core) hstep).trans hrun⟩

/-! ## INIT from IN1 to IDLE (Table 40-2, R156) -/

section
variable {s : State} (n : Nat)

/-- IN1 to IN5: EN is cleared, and the unlocked reset pulse clears the controller (R153). -/
theorem seqTurns_resetRows (h : s.seq.ust = .in1) :
    seqTurns (n + 5) s = seqTurns n { s with
      seq := { s.seq with ust := .in6 }
      ctl := (resetPulse s).ctl
      plat := { locked := true, rst := false }
      wire := s.wire ++ csEvents s.ctl.config.cslvl s.par.cfgReset.cslvl
      draws := s.draws + 2
      regTrace := s.regTrace ++ [.wEn false, .wUnlock s.par.unlockKey, .wRstSet s.par.rstMask,
        .wRstClear s.par.rstMask, .wLock s.par.lockKey] } := by
  rw [seqTurns_succ (seqTurn_in1 h), seqTurns_succ (seqTurn_in2 rfl), seqTurns_succ (seqTurn_in3 rfl),
    platSetReset_of_unlocked rfl, seqTurns_succ (seqTurn_in4 rfl), platClearReset_of_unlocked rfl,
    seqTurns_succ (seqTurn_in5 rfl)]
  simp [State.goto, State.setSeq, State.setCtl, State.setPlat, State.record, State.emit, ctlWriteEn,
    platUnlock, resetPulse, platLock]

/-- IN6 to IN8: the registers that the reset leaves unspecified get their values (R153). -/
theorem seqTurns_thresholdRows (h : s.seq.ust = .in6) (hd : s.par.DepthsSuffice) :
    seqTurns (n + 3) s = seqTurns n { s with
      seq := { s.seq with ust := .in9 }
      ctl := { s.ctl with rxThres := 1, txThres := 1, linear := false }
      regTrace := s.regTrace ++ [.wRxThres 1, .wTxThres 1, .wLinear false] } := by
  obtain ⟨htx, hrx⟩ := hd
  rw [seqTurns_succ (seqTurn_in6 h (by omega)), seqTurns_succ (seqTurn_in7 rfl (by simp; omega)),
    seqTurns_succ (seqTurn_in8 rfl)]
  simp [State.goto, State.setSeq, State.setCtl, State.record, ctlWriteLinear]

/-- IN9 to DONE: the configuration is merged into CONFIG, ENG is enabled and the command completes
(R151, R152, R155). -/
theorem seqTurns_configRows (h : s.seq.ust = .in9) :
    let c := merge s.ctl.config (cfgval s.par s.seq.manualMode)
    seqTurns (n + 4) s = seqTurns n { s with
      seq := { s.seq with
        old := s.ctl.config, shadow := some c, manual := s.seq.manualMode
        result := 0, busy := false, ust := .idle }
      ctl := { s.ctl with
        en := true
        config := c
        running :=
          if s.par.emptyPolicy = .continue ∧ s.ctl.config.cslvl = .asserted then false
          else s.ctl.running }
      wire := s.wire ++ (if s.ctl.config.cslvl = .asserted then [.cs0] else [])
      regTrace := s.regTrace ++ [.rConfig s.ctl.config, .wConfig c false, .wEn true] } := by
  rw [seqTurns_succ (seqTurn_in9 h), seqTurns_succ (seqTurn_in10 rfl), initWriteConfig_eq,
    seqTurns_succ (seqTurn_in11 rfl), seqTurns_succ (seqTurn_done rfl)]
  simp only [State.goto, State.finish, State.setSeq, State.setCtl, State.record, initReadConfig,
    ctlReadConfig, ctlWriteEn, Seq.manualMode, List.append_assoc, List.cons_append,
    List.nil_append]
  rfl

end

/-- The state of R156 under the configuration `c`, the accesses of Table 40-2 recorded. -/
def State.initialised (s : State) (c : CtlConfig) : State :=
  { s with
    seq := { s.seq with
      old := s.par.cfgReset, shadow := some c, manual := s.seq.manualMode
      result := 0, busy := false, ust := .idle }
    ctl := {
      en := true, config := c, linear := false, rxThres := 1, txThres := 1, txq := [], rxq := []
      running := false }
    plat := { locked := true, rst := false }
    wire := s.wire ++ (if s.ctl.config.cslvl = .asserted then [.cs0] else [])
    draws := s.draws + 2
    regTrace := s.regTrace ++
      [.wEn false, .wUnlock s.par.unlockKey, .wRstSet s.par.rstMask, .wRstClear s.par.rstMask,
        .wLock s.par.lockKey, .wRxThres 1, .wTxThres 1, .wLinear false, .rConfig s.par.cfgReset,
        .wConfig c false, .wEn true] }

/-- INIT's twelve turns, chip-select being deasserted in CFG_RESET. -/
theorem seqTurns_init {s : State} (h : s.seq.ust = .in1) (hd : s.par.DepthsSuffice)
    (hc : s.par.cfgReset.cslvl = .deasserted) :
    seqTurns 12 s =
      .next (s.initialised (merge s.par.cfgReset (cfgval s.par s.seq.manualMode))) := by
  have hturns := ((seqTurns_resetRows 7 h).trans (seqTurns_thresholdRows 4 rfl hd)).trans
    (seqTurns_configRows 0 rfl)
  rw [hturns, hc, csEvents_deasserted]
  simp [seqTurns, State.initialised, Seq.manualMode, hc]

/-- Settles O34: the twelve turns; merged into the default CFG_RESET, the computed configuration is
Table 40-1's. -/
theorem initEstablishesTheIdleState : Obligations.InitEstablishesTheIdleState := by
  intro m s rest hu hm hs hc hd cfg
  subst hm
  have hcfg : merge s.par.cfgReset (cfgval s.par s.seq.manualMode) = cfg :=
    hc ▸ merge_cfgReset_cfgval s.par s.seq.manualMode
  have hturns := seqTurns_init hu hd (congrArg CtlConfig.cslvl hc)
  rw [hcfg] at hturns
  obtain ⟨x, ms, hrun⟩ := run_of_seqTurns hs hturns
  have hfull : (s.initialised cfg).ctl.txfull s.par = false :=
    decide_eq_false fun hz : 0 = s.par.txDepth => by have := hd.1; omega
  exact ⟨_, hrun, rfl, rfl, rfl, rfl, rfl, hfull, rfl, rfl, rfl, rfl, rfl, rfl, rfl, rfl, hc ▸ rfl⟩

end Sys2Proof.Machine

/-! SUPPORT. What INIT sets up and nothing writes after it (R157): EN, LINEAR and the platform, CONFIG with
`shadow`, the parameters, and who writes HMEM (R71, R179). -/

namespace Sys2Proof.Machine

/-! ## The frame of what INIT sets up -/

/-- From `s` to `t` the parameters stay, EN, LINEAR and the platform stay if `P`, CONFIG and `shadow` stay
if `C`. -/
structure SetupFrame (P C : Prop) (s t : State) : Prop where
  par : t.par = s.par
  platform : P → t.ctl.en = s.ctl.en ∧ t.ctl.linear = s.ctl.linear ∧ t.plat = s.plat
  config : C → t.ctl.config = s.ctl.config ∧ t.seq.shadow = s.seq.shadow

namespace SetupFrame

variable {P C : Prop} {s t u : State}

theorem refl (s : State) : SetupFrame P C s s := ⟨rfl, fun _ => ⟨rfl, rfl, rfl⟩, fun _ => ⟨rfl, rfl⟩⟩

/-- Of SEQ's registers only `shadow` counts. -/
theorem setSeq (f : SetupFrame P C s u) {q : Seq} (hq : q.shadow = u.seq.shadow) :
    SetupFrame P C s (u.setSeq q) :=
  { f with config := fun hc => ⟨(f.config hc).1, hq.trans (f.config hc).2⟩ }

theorem advance (h : u.advance = .next t) (f : SetupFrame P C s u) : SetupFrame P C s t := by
  obtain ⟨q, rfl, hk⟩ := State.advance_keeps h
  exact f.setSeq hk.shadow

theorem doReturn (h : u.doReturn = .next t) (f : SetupFrame P C s u) : SetupFrame P C s t := by
  obtain ⟨q, hq, rfl⟩ := State.doReturn_eq_next h
  exact f.setSeq (Seq.returnVia_shadow hq)

end SetupFrame

/-! ## SEQ's turn -/

/-- The rows that write EN, LINEAR or a platform register (Table 40-2). -/
def Label.platformRows : List Label := [.in1, .in2, .in3, .in4, .in5, .in8, .in11]

@[simp] theorem platSetReset_par (s : State) : (platSetReset s).par = s.par := by
  by_cases h : s.plat.locked = true <;> simp [platSetReset, h]

@[simp] theorem platClearReset_par (s : State) : (platClearReset s).par = s.par := by
  by_cases h : s.plat.locked = true <;> simp [platClearReset, h]

@[simp] theorem platClearReset_ctl (s : State) : (platClearReset s).ctl = s.ctl := by
  by_cases h : s.plat.locked = true <;> simp [platClearReset, h]

@[simp] theorem Seq.pumpSetup_shadow (q : Seq) : q.pumpSetup.shadow = q.shadow := by
  unfold Seq.pumpSetup; split <;> rfl

@[simp] theorem Seq.refill_shadow (q : Seq) (txnf : Bool) : (q.refill txnf).shadow = q.shadow := by
  cases txnf <;> rfl

@[simp] theorem Seq.drain_shadow (q : Seq) (rxne : Bool) : (q.drain rxne).shadow = q.shadow := by
  cases rxne <;> rfl

/-- T1's calls push a record and bind `opc`. -/
theorem callForOp_setupFrame {P C : Prop} {s t : State} (h : callForOp s = .next t) :
    SetupFrame P C s t := by
  unfold callForOp at h
  split at h <;> cases h <;> exact (SetupFrame.refl s).setSeq rfl

/-- A row that is no instruction: INIT's rows each write what they name, and no other row writes any of
it. -/
theorem localStep_setupFrame {s t : State} (h : localStep s = .next t) :
    SetupFrame (s.seq.ust ∉ Label.platformRows) (s.seq.ust ≠ .in3 ∧ s.seq.ust ≠ .in10) s t := by
  cases hu : s.seq.ust <;> simp only [localStep, hu] at h
  case in1 | in2 | in5 | in8 =>
    exact .advance h ⟨rfl, fun hp => absurd (by decide) hp, fun _ => ⟨rfl, rfl⟩⟩
  case in3 =>
    exact .advance h ⟨platSetReset_par s, fun hp => absurd (by decide) hp, fun hc => absurd rfl hc.1⟩
  case in4 =>
    refine .advance h ⟨platClearReset_par s, fun hp => absurd (by decide) hp, fun _ => ?_⟩
    rw [platClearReset_ctl, platClearReset_seq]
    exact ⟨rfl, rfl⟩
  case in6 =>
    obtain ⟨u, hw, ha⟩ := Result.andThen_eq_next h
    obtain ⟨-, rfl⟩ := ctlWriteRxThres_eq_next hw
    exact .advance ha { SetupFrame.refl s with }
  case in7 =>
    obtain ⟨u, hw, ha⟩ := Result.andThen_eq_next h
    obtain ⟨-, rfl⟩ := ctlWriteTxThres_eq_next hw
    exact .advance ha { SetupFrame.refl s with }
  case in9 => exact .advance h { SetupFrame.refl s with }
  case in10 => exact .advance h ⟨rfl, fun _ => ⟨rfl, rfl, rfl⟩, fun hc => absurd rfl hc.2⟩
  case in11 =>
    cases h
    exact ⟨rfl, fun hp => absurd (by decide) hp, fun _ => ⟨rfl, rfl⟩⟩
  case we2 | rs2 | id2 => exact .doReturn h { SetupFrame.refl s with }
  case t1 => exact callForOp_setupFrame h
  case dr1 =>
    split at h
    · cases h
      exact { SetupFrame.refl s with }
    · exact .doReturn h { SetupFrame.refl s with }
  case ww2 =>
    split at h
    · exact .doReturn h (.refl s)
    · cases h
      exact { SetupFrame.refl s with }
  case rd0 => split at h <;> cases h <;> exact { SetupFrame.refl s with }
  case rd11 =>
    cases h
    exact (SetupFrame.refl s).setSeq s.seq.pumpSetup_shadow
  case l2 =>
    cases h
    exact .setSeq (u := ctlReadStatus s) { SetupFrame.refl s with } (s.seq.refill_shadow s.ctl.txnf)
  case l4 =>
    cases h
    exact .setSeq (u := ctlReadStatus s) { SetupFrame.refl s with } (s.seq.drain_shadow s.ctl.rxne)
  all_goals
    cases h
    exact { SetupFrame.refl s with }

/-- SEQ's turn: of the instructions only CS_ON, CS_OFF and START write CONFIG or `shadow` (R157). -/
theorem seqTurn_setupFrame {s t : State} (h : seqTurn s = .next t) :
    SetupFrame (s.seq.ust ∉ Label.platformRows)
      (s.seq.ust ≠ .in3 ∧ s.seq.ust ≠ .in10 ∧
        microInstr s ∉ [some Instr.csOn, some .csOff, some .start]) s t := by
  cases hi : microInstr s with
  | none =>
    have f := localStep_setupFrame ((seqTurn_of_no_microInstr hi).symm.trans h)
    exact ⟨f.par, f.platform, fun ⟨h3, h10, _⟩ => f.config ⟨h3, h10⟩⟩
  | some i =>
    obtain ⟨m, q⟩ := exec_frame ((seqTurn_of_microInstr hi).symm.trans h)
    refine ⟨m.par, fun _ => ⟨m.en, m.linear, m.plat⟩, fun ⟨_, _, hn⟩ => ?_⟩
    simp only [List.mem_cons, List.not_mem_nil, or_false, Option.some.injEq, not_or] at hn
    obtain ⟨hon, hoff, hstart⟩ := hn
    exact ⟨(m.config hon hoff hstart).1, q.shadow hon hoff⟩

/-- L5 alone pops to the host buffer (Table 45-1). -/
theorem ust_of_microInstr_popHbuf {s : State} {j : Word} (h : microInstr s = some (.pop (.hbuf j))) :
    s.seq.ust = .l5 := by
  cases hu : s.seq.ust with
  | l5 => rfl
  | wt2 | rd7 =>
    simp only [microInstr, hu] at h
    split at h <;> cases h
  | _ => simp [microInstr, hu] at h

/-- Off row L5 SEQ leaves HMEM alone. -/
theorem seqTurn_hmem {s t : State} (h : seqTurn s = .next t) (hl : s.seq.ust ≠ .l5) :
    t.hmem = s.hmem := by
  cases hi : microInstr s with
  | none => exact localStep_hmem ((seqTurn_of_no_microInstr hi).symm.trans h)
  | some i =>
    obtain ⟨m, -⟩ := exec_frame ((seqTurn_of_microInstr hi).symm.trans h)
    refine m.hmem fun j hj => hl (ust_of_microInstr_popHbuf (j := j) ?_)
    rw [hi, hj]

/-! ## ENG's and HOST's turns -/

theorem engStep_setupFrame {P C : Prop} {s t : State} (h : engStep s = .next t) :
    SetupFrame P C s t := by
  obtain rfl | ⟨e, q, -, -, -, rfl⟩ := engStep_eq_next h
  · exact .refl _
  · obtain ⟨w, d, x, hx⟩ := shiftEntry_eq e q s
    rw [hx]
    split <;> exact { SetupFrame.refl s with }

theorem hostTurn_setupFrame {P C : Prop} {s t : State} (h : hostTurn s = .next t) :
    SetupFrame P C s t := by
  obtain ⟨-, rfl⟩ | ⟨m, ms, -, hm⟩ := hostTurn_eq_next h
  · exact .refl _
  obtain hn | ⟨e, -, rfl⟩ := hostMakes_eq_next hm
  · obtain ⟨op, l, d, rfl⟩ | ⟨v, rfl⟩ | ⟨a, v, rfl⟩ := hostMove_eq_next hn <;>
      exact { SetupFrame.refl s with }
  · exact { SetupFrame.refl s with }

/-- Of HOST's moves the write of a word alone touches HMEM (R285). -/
theorem hostTurn_hmem {s t : State} (h : hostTurn s = .next t)
    (hw : ∀ a v ms, s.host.moves ≠ .memWrite a v :: ms) : t.hmem = s.hmem := by
  obtain ⟨-, rfl⟩ | ⟨m, ms, hms, hm⟩ := hostTurn_eq_next h
  · rfl
  obtain hn | ⟨e, -, rfl⟩ := hostMakes_eq_next hm
  · cases m with
    | command d0 d1 d2 d3 =>
      obtain ⟨op, l, d, rfl⟩ := hostCommand_eq_next hn
      rfl
    | readResult =>
      obtain ⟨-, rfl⟩ := hostRead_eq_next hn
      rfl
    | memRead a =>
      obtain ⟨-, -, rfl⟩ := hostMemRead_eq_next hn
      rfl
    | memWrite a v => exact absurd hms (hw a v ms)
  · rfl

/-- Settles O48, agent by agent: SEQ's turn writes what its row names, ENG and HOST none of it. -/
theorem onlyInitTouchesEnableLinearAndPlatform :
    Obligations.OnlyInitTouchesEnableLinearAndPlatform := by
  intro s t h
  obtain ⟨ha, hturn⟩ | ⟨ha, hturn⟩ | ⟨ha, hturn⟩ := step_cases s <;> rw [hturn] at h
  · have f := seqTurn_setupFrame h
    exact ⟨f.par, fun hp => f.platform (hp ha), fun hc => f.config (hc ha),
      fun hl _ => seqTurn_hmem (s := s.tick) h (hl ha)⟩
  · have f : SetupFrame True True s.tick t := engStep_setupFrame h
    exact ⟨f.par, fun _ => f.platform trivial, fun _ => f.config trivial,
      fun _ _ => engStep_hmem (s := s.tick) h⟩
  · have f : SetupFrame True True s.tick t := hostTurn_setupFrame h
    exact ⟨f.par, fun _ => f.platform trivial, fun _ => f.config trivial,
      fun _ hw => hostTurn_hmem (s := s.tick) h (hw ha)⟩

end Sys2Proof.Machine

/-! SUPPORT. The primitives (41_primitives.md): what each makes of the state, written out, when its row is
not X7. -/

namespace Sys2Proof.Machine

/-- Off row X7 the access made ends in `nextRow`. -/
theorem State.advance_eq_nextRow {s : State} (h : s.seq.ust ≠ .x7) : s.advance = .next s.nextRow :=
  State.advance_of_ne h

/-! ## Chip-select and start (R170 to R172) -/

/-- Asserting chip-select is an edge exactly when it was deasserted (R40). -/
theorem csEvents_asserted (l : CsLevel) :
    csEvents l .asserted = if l = .deasserted then [.cs1] else [] := by
  cases l <;> rfl

theorem csEvents_self (l : CsLevel) : csEvents l l = [] := by
  cases l <;> rfl

/-- Asserting chip-select ends no transaction (R281). -/
theorem runningAfterCs_asserted (p : Params) (l : CsLevel) (r : Bool) :
    runningAfterCs p l .asserted r = r := by
  cases hp : p.emptyPolicy <;> cases l <;> simp [runningAfterCs, hp]

theorem runningAfterCs_self (p : Params) (l : CsLevel) (r : Bool) : runningAfterCs p l l r = r := by
  cases hp : p.emptyPolicy <;> cases l <;> simp [runningAfterCs, hp]

/-- A start is lost only under `stop` with TXQ empty (R281). -/
theorem runningAfterStart_eq (p : Params) (q : List TxEntry) (r : Bool) :
    runningAfterStart p q r = if p.emptyPolicy = .stop ∧ q = [] then r else true := by
  cases hp : p.emptyPolicy <;> simp [runningAfterStart, hp]

/-- CS_ON and CS_OFF: the level goes to `shadow` and with it to CONFIG (R170, R171). -/
theorem setChipSelect_of_shadow {l : CsLevel} {c : CtlConfig} {s : State} (h : s.seq.shadow = some c)
    (hx : s.seq.ust ≠ .x7) :
    setChipSelect l s = .next (State.nextRow { s with
      seq := { s.seq with shadow := some { c with cslvl := l } }
      ctl := { s.ctl with
        config := { c with cslvl := l }
        running := runningAfterCs s.par s.ctl.config.cslvl l s.ctl.running }
      wire := s.wire ++ csEvents s.ctl.config.cslvl l
      regTrace := s.regTrace ++ [.wConfig { c with cslvl := l } false] }) := by
  simp only [setChipSelect, h]
  exact State.advance_eq_nextRow hx

/-- Settles O16: asserting is an edge from `deasserted` only, and stops nothing. -/
theorem csOnAssertsChipSelect : Obligations.CsOnAssertsChipSelect := by
  intro c s h hx
  have hon := setChipSelect_of_shadow (l := .asserted) h hx
  rw [runningAfterCs_asserted, csEvents_asserted] at hon
  exact hon

/-- Settles O17: deasserting is an edge from `asserted` only, and then stops ENG under `continue`. -/
theorem csOffDeassertsChipSelect : Obligations.CsOffDeassertsChipSelect := by
  intro c s h hx
  have hoff := setChipSelect_of_shadow (l := .deasserted) h hx
  rw [runningAfterCs_deasserted, csEvents_deasserted] at hoff
  exact hoff

/-- Where CONFIG holds `c` already, writing `c` with MSTRT = 1 is the start rule and its record (R172). -/
theorem ctlWriteConfig_start {c : CtlConfig} {s : State} (hc : s.ctl.config = c) :
    ctlWriteConfig c true s = { s with
      ctl := { s.ctl with
        running := if s.par.emptyPolicy = .stop ∧ s.ctl.txq = [] then s.ctl.running else true }
      regTrace := s.regTrace ++ [.wConfig c true] } := by
  subst hc
  simp [ctlWriteConfig, runningAfterCs_self, csEvents_self, runningAfterStart_eq, State.setCtl,
    State.emit, State.record]

/-- Settles O18: `shadow` is what CONFIG holds, so only the start rule is left of the write. -/
theorem startStartsTheEngine : Obligations.StartStartsTheEngine := by
  intro c s h hc hm hx
  have hstart : exec .start s = (ctlWriteConfig c true s).advance := by
    simp [exec, execStart, h, hm]
  rw [hstart, ctlWriteConfig_start hc]
  exact State.advance_eq_nextRow hx

/-! ## Thresholds (R173, R174) -/

/-- Settles O20: the two branches of each threshold write. -/
theorem legalThresholdsAreStored : Obligations.LegalThresholdsAreStored := by
  refine ⟨fun n s => ⟨fun hn => ?_, fun hn => ?_⟩, fun n s h1 hx => ⟨fun hn => ?_, fun hn => ?_⟩⟩
  · exact congrArg (Result.andThen · _) (ctlWriteRxThres_of_illegal (by omega))
  · exact congrArg (Result.andThen · _) (ctlWriteTxThres_of_illegal (by omega))
  · exact (congrArg (Result.andThen · _) (ctlWriteRxThres_of_legal ⟨h1, hn⟩)).trans
      (State.advance_eq_nextRow hx)
  · exact (congrArg (Result.andThen · _) (ctlWriteTxThres_of_legal ⟨h1, hn⟩)).trans
      (State.advance_eq_nextRow hx)

/-! ## PUSH (R175) -/

/-- A port of `n` bytes keeps the value modulo `2^(8n)` (R33). -/
theorem truncateTo_eq_ofNat (w : Width) (v : Word) :
    truncateTo w v = BitVec.ofNat 32 (v.toNat % 2 ^ (8 * w.bytes)) := by
  apply BitVec.eq_of_toNat_eq
  cases w with
  | w1 | w2 | w3 => simp [truncateTo, Width.bytes]
  | w4 => simp [truncateTo, Width.bytes, Nat.mod_eq_of_lt v.isLt]

/-- With room in TXQ a PUSH appends what its port keeps of the value and records the value. -/
theorem pushEntry_appends {s : State} (w : Width) (v : Word) (hx : s.seq.ust ≠ .x7)
    (hroom : s.ctl.txq.length < s.par.txDepth) :
    pushEntry w v s = .next (State.nextRow { s with
      ctl := { s.ctl with txq := s.ctl.txq ++ [⟨w, truncateTo w v⟩] }
      regTrace := s.regTrace ++ [.wTxd w v] }) := by
  rw [pushEntry, txdWrite, txAppend_of_room _ hroom]
  exact State.advance_eq_nextRow hx

/-- With TXQ full a PUSH sets `tx_overflow` and records the value. -/
theorem pushEntry_of_full {s : State} (w : Width) (v : Word) (hx : s.seq.ust ≠ .x7)
    (hfull : s.par.txDepth ≤ s.ctl.txq.length) :
    pushEntry w v s = .next (State.nextRow { s with
      flags := { s.flags with txOverflow := true }
      regTrace := s.regTrace ++ [.wTxd w v] }) := by
  rw [pushEntry, txdWrite, txAppend_of_full _ (Nat.not_lt.mpr hfull)]
  exact State.advance_eq_nextRow hx

/-- Settles O21: every format is one PUSH, which TXQ takes or, full, drops. -/
theorem pushAppendsAnEntry : Obligations.PushAppendsAnEntry := by
  refine ⟨fun w v s hx hroom => ?_, fun i s ha => execDat4_of_aligned ha, ?_⟩
  · rw [← truncateTo_eq_ofNat]
    exact pushEntry_appends w v hx hroom
  · intro w v o arg a i hi s hx hfull
    have overflow (port : Width) (value : Word) := pushEntry_of_full port value hx hfull
    simp only [List.mem_cons, List.not_mem_nil, or_false] at hi
    obtain rfl | rfl | rfl | rfl | rfl | rfl | rfl | rfl | rfl := hi
    · exact ⟨w, v, fun _ => ⟨rfl, rfl⟩, overflow w v⟩
    all_goals exact ⟨_, _, nofun, overflow _ _⟩

/-! ## POP (R176) -/

/-- Reading RXD takes the head of RXQ and records it (Table 20-1). -/
theorem rxdRead_of_cons {s : State} {w : Word} {q : List Word} (h : s.ctl.rxq = w :: q) :
    rxdRead s = { s with
      ctl := { s.ctl with rxq := q }, regTrace := s.regTrace ++ [.rRxd w] } := by
  rw [rxdRead, rxTake_of_cons h, rxdValue_of_cons h]
  rfl

/-- Reading RXD with RXQ empty sets `rx_underflow` and records the free value (Table 20-1, log 9). -/
theorem rxdRead_of_nil {s : State} (h : s.ctl.rxq = []) :
    rxdRead s = { s with
      flags := { s.flags with rxUnderflow := true }
      draws := s.draws + 1, regTrace := s.regTrace ++ [.rRxd (rxdValue s)] } := by
  rw [rxdRead, rxTake_of_nil h]
  rfl

/-- POP into `tmp` reads RXD, writes `tmp` and ends the row. -/
theorem execPop_tmp (s : State) :
    execPop .tmp s = ((rxdRead s).setSeq { s.seq with tmp := rxdValue s }).advance := by
  rw [← rxdRead_seq s]
  rfl

/-- The head of RXQ goes into `tmp`, then the row ends. -/
theorem execPop_tmp_of_cons {s : State} {w : Word} {q : List Word} (h : s.ctl.rxq = w :: q) :
    execPop .tmp s = State.advance { s with
      seq := { s.seq with tmp := w }
      ctl := { s.ctl with rxq := q }, regTrace := s.regTrace ++ [.rRxd w] } := by
  rw [execPop_tmp, rxdRead_of_cons h, rxdValue_of_cons h]
  rfl

/-- A popped word that is thrown away leaves the read alone. -/
theorem execPop_discard {s : State} (hx : s.seq.ust ≠ .x7) :
    execPop .discard s = .next (rxdRead s).nextRow :=
  State.advance_eq_nextRow (by rwa [rxdRead_seq])

/-- At an aligned address the popped word is stored in the same step. -/
theorem execPop_hbuf {i : Word} {s : State} (hx : s.seq.ust ≠ .x7)
    (ha : aligned (s.seq.ptr + 4 * i) = true) :
    execPop (.hbuf i) s = .next (State.nextRow { rxdRead s with
      hmem := s.hmem.writeWord (s.seq.ptr + 4 * i) (rxdValue s) }) := by
  have hbuf : (rxdRead s).hbuf i = s.seq.ptr + 4 * i := by simp [State.hbuf, hbufAddr]
  rw [execPop, storePopped, hbuf, memWrite_of_aligned ha, rxdRead_hmem, Result.andThen_next]
  exact State.advance_eq_nextRow (by rwa [rxdRead_seq])

/-- Settles O23, destination by destination: the word read is the head of RXQ. -/
theorem popTakesTheHead : Obligations.PopTakesTheHead := by
  intro w q s hq hx
  refine ⟨?_, ?_, fun i ha => ?_⟩
  · exact (execPop_tmp_of_cons hq).trans (State.advance_eq_nextRow hx)
  · exact (execPop_discard hx).trans (by rw [rxdRead_of_cons hq])
  · exact (execPop_hbuf hx ha).trans (by rw [rxdRead_of_cons hq, rxdValue_of_cons hq])

/-- Settles O24, destination by destination: the word read is the free value. -/
theorem popFromAnEmptyQueueUnderflows : Obligations.PopFromAnEmptyQueueUnderflows := by
  intro s hq hx
  have hread := rxdRead_of_nil hq
  refine ⟨rxdValue s, ?_, ?_, fun i ha => ?_⟩
  · refine (execPop_tmp s).trans ?_
    rw [hread]
    exact State.advance_eq_nextRow hx
  · exact (execPop_discard hx).trans (by rw [hread])
  · exact (execPop_hbuf hx ha).trans (by rw [hread])

/-! ## POLL (R177) -/

theorem execPoll_of_set {f : PollFlag} {s : State} (h : s.ctl.pollFlag f = true) :
    execPoll f s = (ctlReadStatus s).advance := if_pos h

theorem execPoll_of_clear {f : PollFlag} {s : State} (h : s.ctl.pollFlag f = false) :
    execPoll f s = .next (ctlReadStatus s) := if_neg (by simp [h])

/-- Settles O26: the two branches of POLL after its read of STATUS. -/
theorem pollGoesOnOrStays : Obligations.PollGoesOnOrStays := by
  refine fun f s => ⟨fun hf hx => ?_, execPoll_of_clear, ?_⟩
  · exact (execPoll_of_set hf).trans (State.advance_eq_nextRow hx)
  · cases f <;> rfl

end Sys2Proof.Machine

/-! SUPPORT. Calls and returns (R180): what a record holds, and where a return goes on; the rows that are an
instruction or a call (Tables 41-1 to 45-1). -/

namespace Sys2Proof.Machine

/-! ## Calls (R180) -/

/-- Off PP15 a record names the next row of the calling table. -/
theorem Seq.returnRecord_resume {q : Seq} (h : q.ust ≠ .pp15) :
    q.returnRecord.resume = .label q.ust.succ := by
  unfold Seq.returnRecord
  split
  · contradiction
  · rfl

/-- Settles O27: each call by its definition; a record's place is the next row, its registers those of
the calling row. -/
theorem callsPushARecord : Obligations.CallsPushARecord := by
  refine ⟨fun w v pa pb s => ⟨rfl, rfl, rfl, rfl⟩, fun r hr q hq => ?next, fun q hq => ?pp15,
    fun q hq => ?write, fun l hl q hq => ?page, fun l hl q hq => ?none⟩
  case next =>
    have hrow : r.1 ≠ .pp15 ∧ r.1.succ = r.2 := by
      clear hq
      revert r
      decide
    rw [Seq.returnRecord_resume (hq ▸ hrow.1), hq, hrow.2]
  case pp15 => simp [Seq.returnRecord, hq]
  case write => simp [Seq.returnRecord, Seq.liveRegs, hq]
  case page =>
    simp only [List.mem_cons, List.not_mem_nil, or_false] at hl
    obtain rfl | rfl | rfl | rfl := hl <;> simp [Seq.returnRecord, Seq.liveRegs, hq]
  case none =>
    simp only [List.mem_cons, List.not_mem_nil, or_false] at hl
    obtain rfl | rfl | rfl | rfl | rfl | rfl | rfl | rfl | rfl | rfl := hl <;>
      simp [Seq.returnRecord, Seq.liveRegs, hq]

/-! ## Returns (R180, R240) -/

/-- Elsewhere than at WW2 a return writes no register of its own. -/
theorem Seq.resumeAt_of_ne {l : Label} (h : l ≠ .ww2) (q : Seq) : q.resumeAt l = { q with ust := l } := by
  unfold Seq.resumeAt
  split
  · contradiction
  · rfl

/-- A record that names a label is resumed at, with its registers restored. -/
theorem State.doReturn_of_label {s : State} {l : Label} {v : Saved} {rs : List Record}
    (h : s.seq.stk = ⟨.label l, v⟩ :: rs) :
    s.doReturn = .next (s.setSeq ({ s.seq.restore v with stk := rs }.resumeAt l)) := by
  simp [State.doReturn, h, Seq.returnVia]

/-- Elsewhere than at WW2 that is all a return does. -/
theorem State.doReturn_of_label_ne {s : State} {l : Label} {v : Saved} {rs : List Record}
    (h : s.seq.stk = ⟨.label l, v⟩ :: rs) (hl : l ≠ .ww2) :
    s.doReturn = .next (s.setSeq { s.seq.restore v with stk := rs, ust := l }) := by
  rw [State.doReturn_of_label h, Seq.resumeAt_of_ne hl]

/-- A record that resumes by returning restores its registers and pops the next one (log 16). -/
theorem State.doReturn_of_ret_label {s : State} {l : Label} {v v' : Saved} {rs : List Record}
    (h : s.seq.stk = ⟨.ret, v⟩ :: ⟨.label l, v'⟩ :: rs) (hl : l ≠ .ww2) :
    s.doReturn = .next (s.setSeq { (s.seq.restore v).restore v' with stk := rs, ust := l }) := by
  simp [State.doReturn, h, Seq.returnVia, Seq.resumeAt_of_ne hl]

/-- Settles O28, by the shape of the topmost record; X7 is a POP into `tmp` and then a return. -/
theorem returnsResumeTheCaller : Obligations.ReturnsResumeTheCaller := by
  refine ⟨fun w q l rs s hx hq hs hl => ?x7, fun l rs s => ⟨fun hl => ?other, State.doReturn_of_label⟩⟩
  case x7 =>
    exact (execPop_tmp_of_cons hq).trans
      (Eq.trans (State.advance_of_x7 hx) (State.doReturn_of_label_ne (v := .none) hs hl))
  case other =>
    exact ⟨fun hs => State.doReturn_of_label_ne hs hl, fun i c hs => State.doReturn_of_label_ne hs hl,
      fun a b k hs => State.doReturn_of_label_ne hs hl,
      fun a b k i c hs => State.doReturn_of_ret_label hs hl⟩

/-! ## Rows (Tables 41-1 to 45-1) -/

/-- A table that gives the row of `s` at each of its labels gives the instruction of `s` at the label where
`s` stands. -/
theorem microInstr_of_table {rows : List (Label × (State → Instr))} {s : State}
    (h : rows.map (fun r => microInstr (s.goto r.1)) = rows.map fun r => some (r.2 s))
    {r : Label × (State → Instr)} (hr : r ∈ rows) (hs : s.seq.ust = r.1) :
    microInstr s = some (r.2 s) := by
  have hrow : microInstr (s.goto r.1) = some (r.2 s) := List.map_inj_left.mp h r hr
  rwa [← hs] at hrow

/-- Settles O35: the instruction rows as one table, the others by their local step. -/
theorem rowsRunTheirInstruction : Obligations.RowsRunTheirInstruction := by
  refine ⟨fun r hr s hs => seqTurn_of_microInstr (microInstr_of_table rfl hr hs), fun s => ?_⟩
  have turn {r : Result} (hm : microInstr s = none) (hl : localStep s = r) : seqTurn s = r :=
    (seqTurn_of_no_microInstr hm).trans hl
  refine ⟨fun h => ?wren, fun h => ?ww1, fun h => ?t1, fun h hc => ?rd0⟩
  case wren =>
    simp only [List.mem_cons, List.not_mem_nil, or_false] at h
    refine turn (r := .next (s.call .we1)) ?_ ?_
    · obtain h | h | h := h <;> simp [microInstr, h]
    · obtain h | h | h := h <;> simp [localStep, h]
  case ww1 =>
    exact turn (r := .next (callRdsr s.par.opcRdsr s)) (by simp [microInstr, h]) (by simp [localStep, h])
  case t1 =>
    have call {r : Result} (hr : callForOp s = r) : seqTurn s = r :=
      turn (by simp [microInstr, h]) (by simpa [localStep, h] using hr)
    refine ⟨fun ho => ?_, fun ho => ?_, fun ho => ?_, fun ho => ?_⟩
    · exact call (r := .next (s.call .id1)) (by simp [callForOp, ho])
    · exact call (r := .next (callRdsr s.par.opcRdsr s)) (by simp [callForOp, ho])
    · exact call (r := .next (callRdsr s.par.opcRdsr2 s)) (by simp [callForOp, ho])
    · exact call (r := .next (s.call .we1)) (by simp [callForOp, ho])
  case rd0 =>
    refine turn (r := .next (s.goto .rd1)) (by simp [microInstr, h]) ?_
    simp only [localStep, h]
    exact if_neg hc

/-- Settles O39: DR1 reads STATUS and goes by RXNE, which compares the level with its threshold (R31). -/
theorem drainStopsAtTheFlag : Obligations.DrainStopsAtTheFlag := by
  intro s h
  have hturn : seqTurn s = localStep s := seqTurn_of_no_microInstr (by simp [microInstr, h])
  refine ⟨fun hr => ?_, fun hr => ?_⟩
  · have hl : localStep s = .next ((ctlReadStatus s).goto .dr2) := by
      simp [localStep, h, Ctl.rxne, hr]
    exact hturn.trans hl
  · have hl : localStep s = (ctlReadStatus s).doReturn := by
      simp [localStep, h, Ctl.rxne, hr]
    exact hturn.trans hl

end Sys2Proof.Machine

/-! SUPPORT. WRITE, the address chunker, and its page counter (R220, Table 43-1). -/

namespace Sys2Proof.Machine

/-- With a page left, WT2 is the call of PROGRAM_PAGE for page `page_i` (R120, R220). -/
theorem microInstr_of_wt2 {s : State} (h : s.seq.ust = .wt2)
    (hi : s.seq.pageI.toNat < s.seq.chunks.toNat) :
    microInstr s =
      some (.programPage (pageAddr s.seq.addr s.seq.pageI) (pageBase s.seq.pageI)) := by
  simp [microInstr, h, hi]

/-- Settles O37: WT1 and WT3 are local steps; WT2 is a call while a page is left, and with none left it is
WRITE's row that ends with result 0 (O43). -/
theorem writeCallsItsPages : Obligations.WriteCallsItsPages := by
  intro s
  refine ⟨fun h => ?wt1, fun h hi => ?page, fun h hi => ?ends, fun h => ?wt3⟩
  case wt1 =>
    rw [seqTurn_of_no_microInstr (by simp [microInstr, h])]
    simp [localStep, h]
  case page => exact seqTurn_of_microInstr (microInstr_of_wt2 h hi)
  case ends =>
    obtain ⟨-, -, zero, -⟩ := commandsCompleteWithTheirResult s
    exact zero (by simp [h, hi])
  case wt3 =>
    rw [seqTurn_of_no_microInstr (by simp [microInstr, h])]
    simp [localStep, h]

end Sys2Proof.Machine

/-! SUPPORT. WAIT_WIP, the completion poll (R240, R241, R242, Table 44-1). -/

namespace Sys2Proof.Machine

/-- WW2 tests the bits of WIP_MASK in `sr` and no other: it returns when they are clear and reads again
when one is set (R241, R242). -/
theorem seqTurn_ww2 {s : State} (h : s.seq.ust = .ww2) :
    seqTurn s = if s.seq.sr &&& s.par.wipMask = 0 then s.doReturn else .next (s.goto .ww1) := by
  rw [seqTurn_of_no_microInstr (by simp [microInstr, h])]
  simp [localStep, h]

/-- Settles O38: WW1 is the row's call of RDSR(OPC_RDSR) (O35); WW2 goes by its one test. -/
theorem waitWipReadsUntilClear : Obligations.WaitWipReadsUntilClear := by
  intro s
  refine ⟨fun h => ?ww1, fun h hset => ?again, fun h hclear => ?done⟩
  case ww1 =>
    obtain ⟨-, rows⟩ := rowsRunTheirInstruction
    obtain ⟨-, ww1, -⟩ := rows s
    exact ww1 h
  case again => exact (seqTurn_ww2 h).trans (if_neg hset)
  case done => exact (seqTurn_ww2 h).trans (if_pos hclear)

end Sys2Proof.Machine

/-! SUPPORT. READ (45_read_path.md, Table 45-1): the pump setup (R253, R254), the pump loop (R255), what its
bursts do to the counters (R255, R256); READ and WRITE of no words (R220, R251). -/

namespace Sys2Proof.Machine

/-! ## The widths of the counters -/

/-- A count of at most 63 words fits the 7 bits of `n` and `chunk`. -/
theorem toNat_truncate_of_le {c : Word} (h : c.toNat ≤ 63) :
    (c.truncate 7).toNat = c.toNat :=
  (BitVec.toNat_setWidth 7 c).trans (Nat.mod_eq_of_lt (by omega))

/-- A burst of the pump fits the 7 bits of `n`. -/
theorem toNat_burstLength (rem : Nat) : (BitVec.ofNat 7 (min 32 rem)).toNat = min 32 rem :=
  (BitVec.toNat_ofNat _ 7).trans (Nat.mod_eq_of_lt (by omega))

/-! ## The rows of the pump that are no instruction (Table 45-1) -/

section
variable {s : State}

theorem seqTurn_rd11 (h : s.seq.ust = .rd11) : seqTurn s = .next (s.setSeq s.seq.pumpSetup) := by
  rw [seqTurn_of_no_microInstr (by simp [microInstr, h])]
  simp [localStep, h]

theorem seqTurn_l1 (h : s.seq.ust = .l1) : seqTurn s = .next (s.setSeq s.seq.pumpTurn) := by
  rw [seqTurn_of_no_microInstr (by simp [microInstr, h])]
  simp [localStep, h]

theorem seqTurn_l2 (h : s.seq.ust = .l2) :
    seqTurn s = .next ((ctlReadStatus s).setSeq (s.seq.refill s.ctl.txnf)) := by
  rw [seqTurn_of_no_microInstr (by simp [microInstr, h])]
  simp [localStep, h]

theorem seqTurn_l4 (h : s.seq.ust = .l4) :
    seqTurn s = .next ((ctlReadStatus s).setSeq (s.seq.drain s.ctl.rxne)) := by
  rw [seqTurn_of_no_microInstr (by simp [microInstr, h])]
  simp [localStep, h]

end

/-! ## The setup and the loop (R253, R254, R255) -/

theorem Seq.pumpSetup_of_gt {q : Seq} (h : 63 < q.count.toNat) :
    q.pumpSetup = { q with
      rxRem := q.count, off := 0, k := 0, n := 63, txRem := q.count - 63, chunk := 32
      ust := .rd12 } := if_pos h

theorem Seq.pumpSetup_of_le {q : Seq} (h : q.count.toNat ≤ 63) :
    q.pumpSetup = { q with
      rxRem := q.count, off := 0, k := 0, n := q.count.truncate 7, txRem := 0
      chunk := q.count.truncate 7, ust := .rd12 } := if_neg (Nat.not_lt.mpr h)

/-- Settles O40, by the one comparison of RD11. -/
theorem pumpSetupComparesCountWith63 : Obligations.PumpSetupComparesCountWith63 := by
  intro s h
  refine ⟨fun hgt => ?above, fun hle => ?upTo⟩
  case above => rw [seqTurn_rd11 h, Seq.pumpSetup_of_gt hgt]
  case upTo =>
    refine ⟨s.seq.count.truncate 7, toNat_truncate_of_le hle, ?_⟩
    rw [seqTurn_rd11 h, Seq.pumpSetup_of_le hle]

/-- Settles O41, row by row: L1 looks at the counters, L2 and L4 each at the flag of one STATUS read. -/
theorem pumpLoopServesTransmitFirst : Obligations.PumpLoopServesTransmitFirst := by
  intro s read
  refine ⟨seqTurn_l1, fun h hf => ?refill, fun h hf => ?full, fun h hf => ?drain, fun h hf => ?none⟩
  case refill =>
    refine ⟨_, toNat_burstLength s.seq.txRem.toNat, ?_⟩
    rw [seqTurn_l2 h, hf]
    rfl
  case full => rw [seqTurn_l2 h, hf]; rfl
  case drain => rw [seqTurn_l4 h, hf]; rfl
  case none => rw [seqTurn_l4 h, hf]; rfl

/-! ## The ends of its bursts (R255, R256; log 17, 18) -/

theorem Seq.burst_of_lt {q : Seq} {len : Nat} {last : Seq → Seq} (h : q.k.toNat + 1 < len) :
    q.burst len last = { q with k := q.k + 1 } := if_pos h

theorem Seq.burst_of_last {q : Seq} {len : Nat} {last : Seq → Seq} (h : q.k.toNat + 1 = len) :
    q.burst len last = last { q with k := 0 } := if_neg h.not_lt

theorem Seq.afterRow_l3 {q : Seq} (h : q.ust = .l3) :
    q.afterRow = q.burst q.n.toNat Seq.afterRefill := by
  simp [Seq.afterRow, h]

theorem Seq.afterRow_l5 {q : Seq} (h : q.ust = .l5) :
    q.afterRow = q.burst q.chunk.toNat Seq.afterDrain := by
  simp [Seq.afterRow, h]

theorem Seq.afterRow_l6 {q : Seq} (h : q.ust = .l6) :
    q.afterRow = { q with chunk := q.rxRem.truncate 7, ust := .l1 } := by
  simp [Seq.afterRow, h]

/-- Settles O42: the two bursts before and at their end, and the chunk of L6. -/
theorem pumpBurstsAccountForTheirWords : Obligations.PumpBurstsAccountForTheirWords := by
  refine fun q => ⟨fun h _ => ⟨fun hk => ?push, fun hk => ?pushed⟩,
    fun h _ => ⟨fun hk => ?pop, fun hk rem hrem => ?popped⟩, fun h hle => ?tail⟩
  case push => rw [Seq.afterRow_l3 h, Seq.burst_of_lt hk]
  case pushed =>
    rw [Seq.afterRow_l3 h, Seq.burst_of_last hk]
    rfl
  case pop => rw [Seq.afterRow_l5 h, Seq.burst_of_lt hk]
  case popped =>
    subst hrem
    rw [Seq.afterRow_l5 h, Seq.burst_of_last hk]
    rfl
  case tail =>
    rw [Seq.afterRow_l6 h]
    exact ⟨toNat_truncate_of_le hle, rfl, rfl⟩

/-! ## Commands of no words (R220, R251) -/

/-- A row that writes `result` and DONE after it: the command is complete (R115). -/
theorem seqTurns_of_finish {s : State} {v : Word} (h : seqTurn s = .next (s.finish v)) :
    seqTurns 2 s = .next (s.setSeq { s.seq with result := v, busy := false, ust := .idle }) := by
  rw [seqTurns_succ h, seqTurns_succ (seqTurn_done rfl)]
  rfl

/-- RD0 with no words goes straight to DONE (R251). -/
theorem seqTurns_read_of_no_words {s : State} (h : s.seq.ust = .rd0) (hc : s.seq.count = 0) :
    seqTurns 2 s = .next (s.setSeq { s.seq with result := 0, busy := false, ust := .idle }) := by
  obtain ⟨-, -, zero, -⟩ := commandsCompleteWithTheirResult s
  exact seqTurns_of_finish (zero (by simp [h, hc]))

/-- WT1 counts no chunks for no words, and WT2 ends without a page (R220). -/
theorem seqTurns_write_of_no_words {s : State} (h : s.seq.ust = .wt1) (hc : s.seq.count = 0) :
    seqTurns 3 s = .next (s.setSeq { s.seq with
      chunks := 0, pageI := 0, result := 0, busy := false, ust := .idle }) := by
  obtain ⟨count, -⟩ := writeCallsItsPages s
  obtain ⟨-, -, ends, -⟩ := writeCallsItsPages
    (s.setSeq { s.seq with chunks := 0, pageI := 0, ust := .wt2 })
  have hwt1 := count h
  rw [hc, show chunksOf 0 = 0 by decide] at hwt1
  rw [seqTurns_succ hwt1, seqTurns_of_finish (ends rfl (Nat.le_refl 0))]
  rfl

/-- Settles O44: the two turns of READ and the three of WRITE change registers of SEQ only. -/
theorem zeroWordCommandsTouchNothing : Obligations.ZeroWordCommandsTouchNothing := by
  refine fun s rest hc => ⟨fun h hs => ?read, fun h hs => ?write⟩
  case read =>
    obtain ⟨x, ms, hrun⟩ := run_of_seqTurns hs (seqTurns_read_of_no_words h hc)
    exact ⟨_, hrun, rfl, rfl, rfl, rfl, rfl, rfl, rfl⟩
  case write =>
    obtain ⟨x, ms, hrun⟩ := run_of_seqTurns hs (seqTurns_write_of_no_words h hc)
    exact ⟨_, hrun, rfl, rfl, rfl, rfl, rfl, rfl, rfl⟩

end Sys2Proof.Machine

/-! SUPPORT. ENG's shift, byte by byte (R280, R282, R283), and the wire opcodes (R122). -/

namespace Sys2Proof.Machine

/-! ## DEV while no frame is open (R280, R283) -/

/-- A device that is a function of the history, and every device while no frame is open, answers by the
history and the byte sent (R280, R283). -/
theorem State.answer_of_unselected {s : State} (h : s.dev = .oracle ∨ frameSent s.wire = none)
    (b : Byte) : s.answer b = Config.device s.wire b := by
  obtain h | h := h
  · simp [State.answer, h]
  · simp [State.answer, h]

theorem State.deviceAfter_of_oracle {s : State} (h : s.dev = .oracle) : s.deviceAfter = .oracle := by
  simp [State.deviceAfter, h]

/-- Bytes open no frame. -/
theorem frameSent_append_bytes {wire : List WireEvent} (h : frameSent wire = none) (js : List Nat)
    (sent received : Nat → Byte) :
    frameSent (wire ++ js.map fun j => .byte (sent j) (received j)) = none := by
  rw [frameSent, List.foldl_append, List.foldl_map]
  rw [frameSent] at h
  rw [h]
  induction js with
  | nil => rfl
  | cons j js ih => exact ih

/-! ## The bytes of one entry -/

theorem length_sentBytes (w : Width) (v : Word) : (sentBytes w v).length = w.bytes := by
  simp [sentBytes]

/-- The `k`-th byte of an entry is byte `k` of its value, the low byte first (R75). -/
theorem getD_sentBytes {w : Width} {k : Nat} (v : Word) (h : k < w.bytes) :
    (sentBytes w v).getD k 0 = v.extractLsb' (8 * k) 8 := by
  simp [sentBytes, byteOf, h]

/-- `s` with WIRE after `k` bytes have been exchanged, and DEV as it stands then. -/
def State.exchanged (s : State) (sent received : Nat → Byte) (devs : Nat → Device) (k : Nat) : State :=
  { s with
    dev := devs k
    wire := s.wire ++ (List.range k).map fun j => .byte (sent j) (received j) }

/-- Only the bytes below `k` count. -/
theorem State.exchanged_congr {sent sent' : Nat → Byte} {k : Nat} (h : ∀ j < k, sent j = sent' j)
    (s : State) (received : Nat → Byte) (devs : Nat → Device) :
    s.exchanged sent received devs k = s.exchanged sent' received devs k := by
  have hmap : (List.range k).map (fun j => WireEvent.byte (sent j) (received j)) =
      (List.range k).map fun j => .byte (sent' j) (received j) :=
    List.map_congr_left fun j hj => by rw [h j (List.mem_range.mp hj)]
  rw [State.exchanged, hmap, State.exchanged]

/-- The exchanges of an entry: each byte received is DEV's answer after the exchanges before it (R283). -/
theorem exchangeAll_sentBytes (w : Width) (v : Word) (s : State) :
    ∃ devs : Nat → Device, devs 0 = s.dev ∧
      let x := exchangeAll (sentBytes w v) s
      let exchanged := s.exchanged (fun k => v.extractLsb' (8 * k) 8) (x.2.getD · 0) devs
      (∀ k < w.bytes, x.2.getD k 0 = (exchanged k).answer (v.extractLsb' (8 * k) 8) ∧
        devs (k + 1) = (exchanged k).deviceAfter) ∧
      x.1 = exchanged w.bytes := by
  obtain ⟨devs, hzero, hanswers, hafter⟩ := exchangeAll_answers (sentBytes w v) s
  have upTo {k : Nat} (hk : k ≤ w.bytes) (received : Nat → Byte) :
      s.exchanged ((sentBytes w v).getD · 0) received devs k =
        s.exchanged (fun k => v.extractLsb' (8 * k) 8) received devs k :=
    State.exchanged_congr (fun j hj => getD_sentBytes v (hj.trans_le hk)) s received devs
  rw [length_sentBytes] at hanswers hafter
  refine ⟨devs, hzero, fun k hk => ?_, hafter.trans (upTo le_rfl _)⟩
  rw [← upTo hk.le, ← getD_sentBytes v hk]
  exact hanswers k hk

/-- A device that is any function of the history stays so, and with no frame open the bytes open none, as
long as DEV moves on by its own answers. -/
theorem State.exchanged_unselected {s : State} {sent received : Nat → Byte} {devs : Nat → Device}
    {n : Nat} (hzero : devs 0 = s.dev)
    (hafter : ∀ k < n, devs (k + 1) = (s.exchanged sent received devs k).deviceAfter)
    (h : s.dev = .oracle ∨ frameSent s.wire = none) {k : Nat} (hk : k < n) :
    (s.exchanged sent received devs k).dev = .oracle ∨
      frameSent (s.exchanged sent received devs k).wire = none := by
  obtain h | h := h
  · left
    induction k with
    | zero => exact hzero.trans h
    | succ k ih =>
      have hk' : k < n := Nat.lt_of_succ_lt hk
      exact (hafter k hk').trans (State.deviceAfter_of_oracle (ih hk'))
  · exact .inr (frameSent_append_bytes h (List.range k) sent received)

/-! ## The shift (R280, R282) -/

theorem State.engEnabled_iff (s : State) :
    s.engEnabled = true ↔
      s.ctl.en = true ∧ s.ctl.running = true ∧ s.ctl.txq ≠ [] ∧
        (s.par.rxFullPolicy = .stall → s.ctl.rxq.length < s.par.rxDepth) := by
  cases hp : s.par.rxFullPolicy <;> simp [State.engEnabled, hp, and_assoc]

theorem engStep_of_not_enabled {s : State} (h : s.engEnabled = false) : engStep s = .next s := by
  simp [engStep, h]

theorem State.shiftRefusal_eq_none {s : State} (he : s.ctl.config.endian = .little)
    (hw : s.ctl.config.fwidth = .w32) (hl : s.ctl.linear = false) : s.shiftRefusal = none := by
  simp [State.shiftRefusal, he, hw, hl]

theorem runningAfterShift_eq (p : Params) (q : List TxEntry) (r : Bool) :
    runningAfterShift p q r = if p.emptyPolicy = .stop ∧ q = [] then false else r := by
  cases hp : p.emptyPolicy <;> simp [runningAfterShift, hp]

/-- Delivery, written out (R282). -/
theorem deliver_eq (w : Word) (s : State) :
    deliver w s = { s with
      flags := if s.ctl.rxq.length < s.par.rxDepth then s.flags else { s.flags with rxOverrun := true }
      ctl := { s.ctl with
        rxq := if s.ctl.rxq.length < s.par.rxDepth then s.ctl.rxq ++ [w] else s.ctl.rxq } } := by
  unfold deliver
  split <;> rfl

/-- Settles O30: the head entry's bytes are exchanged one after another, and one word is delivered. -/
theorem engShiftsOneEntry : Obligations.EngShiftsOneEntry := by
  refine fun s => ⟨s.engEnabled_iff, engStep_of_not_enabled, fun w v q he hq hend hwid hlin => ?_⟩
  obtain ⟨devs, hzero, hanswers, hafter⟩ := exchangeAll_sentBytes w v s
  have hlen : (exchangeAll (sentBytes w v) s).2.length = w.bytes := by
    rw [exchangeAll_length, length_sentBytes]
  refine ⟨_, devs, hlen, hzero, hanswers, fun hdev k hk => ?answer, ?shift⟩
  case answer =>
    have hun := State.exchanged_unselected hzero (fun k hk => (hanswers k hk).2) hdev hk
    exact (hanswers k hk).1.trans (State.answer_of_unselected hun _)
  case shift =>
    have hrule := State.shiftRefusal_eq_none hend hwid hlin
    rw [engStep_of_enabled he hrule hq, shiftEntry, deliver_eq, hafter, runningAfterShift_eq]
    rfl

/-- Settles O29: each opcode's meaning is the exchange of its parameter's byte. -/
theorem wireOpcodesAreOneExchange : Obligations.WireOpcodesAreOneExchange := by
  intro r hr s
  simp only [List.mem_cons, List.not_mem_nil, or_false] at hr
  obtain rfl | rfl | rfl | rfl | rfl | rfl | rfl | rfl | rfl | rfl := hr
  all_goals rfl

end Sys2Proof.Machine

/-! SUPPORT. HOST's moves, only while SEQ is idle, and what a refused one leaves (R285, R89, R113). -/

namespace Sys2Proof.Machine

/-- HOST's turn uses up its oldest move. -/
theorem hostTurn_of_cons {s : State} {m : HostMove} {ms : List HostMove} (h : s.host.moves = m :: ms) :
    hostTurn s = hostOutcome (s.setMoves ms) (hostMove m (s.setMoves ms)) := by
  rw [hostTurn, h]
  rfl

theorem hostRead_of_idle {s : State} (h : s.seq.busy = false ∧ s.seq.ust = .idle) (v : Word) :
    hostRead v s = .next (s.observe v) := if_pos h

theorem hostMemRead_of_idle {s : State} {a : Word} (h : s.seq.busy = false ∧ s.seq.ust = .idle)
    (ha : aligned a = true) : hostMemRead a s = .next (s.observe (s.hmem.readWord a)) := by
  rw [hostMemRead, hostRead_of_idle h]
  exact if_pos ha

theorem hostMemWrite_of_idle {s : State} {a v : Word} (h : s.seq.busy = false ∧ s.seq.ust = .idle)
    (ha : aligned a = true) :
    hostMemWrite a v s = .next { s with hmem := s.hmem.writeWord a v } :=
  (if_pos h).trans (memWrite_of_aligned ha)

/-- HOST's moves other than commands (R285). -/
def HostMove.isAccess : HostMove → Bool
  | .command _ _ _ _ => false
  | .readResult | .memRead _ | .memWrite _ _ => true

/-- During a command HOST has none of them (R89, log 2). -/
theorem hostMove_of_busy {m : HostMove} {s : State} (hm : m.isAccess = true) (h : s.seq.busy = true) :
    hostMove m s = .refused .busy := by
  have hidle : ¬(s.seq.busy = false ∧ s.seq.ust = .idle) := by simp [h]
  have hread (v : Word) : hostRead v s = .refused .busy := if_neg hidle
  cases m with
  | command => cases hm
  | readResult => exact hread _
  | memRead a => rw [hostMove, hostMemRead, hread]; rfl
  | memWrite a v => exact if_neg hidle

/-- Settles O46: HOST's turn is the outcome of its oldest move, which SEQ's `busy` and `ust` decide. -/
theorem hostMovesOnlyWhileIdle : Obligations.HostMovesOnlyWhileIdle := by
  intro a v d0 d1 d2 d3 e ms s
  have turn {m : HostMove} {r : Result} (hm : s.host.moves = m :: ms)
      (hr : hostMove m (s.setMoves ms) = r) : hostTurn s = hostOutcome (s.setMoves ms) r := by
    rw [hostTurn_of_cons hm, hr]
  refine ⟨fun hb hu => ⟨fun hm => ?_, fun hm ha => ?_, fun hm ha => ?_⟩, fun hb hm => ?busy,
    fun hm hr => turn hm hr, fun hm => ?none⟩
  · exact turn hm (hostRead_of_idle (s := s.setMoves ms) ⟨hb, hu⟩ _)
  · exact turn hm (hostMemRead_of_idle ⟨hb, hu⟩ ha)
  · exact turn hm (hostMemWrite_of_idle ⟨hb, hu⟩ ha)
  case busy =>
    obtain hm | hm | hm := hm
    all_goals exact turn hm (hostMove_of_busy rfl hb)
  case none => rw [hostTurn, hm]

end Sys2Proof.Machine

/-! SUPPORT. SEQ is never stuck (R286): every row's access is legal where the run invariant holds, and every
return finds its record. -/

namespace Sys2Proof.Machine

/-! ## Returns find their record (R180) -/

theorem Seq.returnVia_of_stackFits {rs : List Record} {l : Label} (hl : l.callers ≠ [])
    (h : stackFits rs l = true) (q : Seq) : ∃ q', Seq.returnVia rs q = some q' := by
  induction rs generalizing l q with
  | nil => exact absurd (List.isEmpty_iff.mp h) hl
  | cons r rs ih =>
    rw [stackFits, Bool.and_eq_true] at h
    obtain ⟨-, hrest⟩ := h
    unfold Seq.returnVia
    cases hr : r.resume with
    | label l' => exact ⟨_, rfl⟩
    | ret =>
      rw [hr] at hrest
      exact ih (l := .pp15) (by decide) hrest _

/-- A called row's return does not meet an empty stack. -/
theorem State.doReturn_moves {s : State} {l : Label} (hl : l.callers ≠ [])
    (h : stackFits s.seq.stk l = true) : ∃ t, s.doReturn = .next t := by
  obtain ⟨q, hq⟩ := Seq.returnVia_of_stackFits hl h s.seq
  exact ⟨s.setSeq q, by rw [State.doReturn, hq]⟩

/-- The end of a row: X7 returns, every other row goes to a label. -/
theorem State.advance_moves {s : State} (h : stackFits s.seq.stk s.seq.ust = true) :
    ∃ t, s.advance = .next t := by
  by_cases hx : s.seq.ust = .x7
  · rw [State.advance_of_x7 hx]
    exact State.doReturn_moves (l := .x7) (by decide) (hx ▸ h)
  · exact ⟨_, State.advance_of_ne hx⟩

/-! ## The instruction rows -/

/-- What SEQ's instruction needs of the state so that it is not refused: a `shadow` for chip-select (R22),
MSTREN = 1 for a start (R281), a legal threshold (R32), a buffer word's address (R80). -/
def Instr.Ready (s : State) : Instr → Prop
  | .csOn | .csOff => s.seq.shadow ≠ none
  | .start => ∃ c, s.seq.shadow = some c ∧ c.mstren = true
  | .setRxth n => 1 ≤ n ∧ n ≤ s.par.rxDepth
  | .setTxth n => 1 ≤ n ∧ n ≤ s.par.txDepth
  | .pop (.hbuf i) | .dat4 i => aligned (s.hbuf i) = true
  | i => Instr.isCommand i = false

section
variable {s : State}

theorem pushEntry_moves (hs : stackFits s.seq.stk s.seq.ust = true) (w : Width) (v : Word) :
    ∃ t, pushEntry w v s = .next t :=
  State.advance_moves (by rwa [txdWrite_seq])

theorem setChipSelect_moves (hs : stackFits s.seq.stk s.seq.ust = true) (h : s.seq.shadow ≠ none)
    (l : CsLevel) : ∃ t, setChipSelect l s = .next t := by
  obtain ⟨c, hc⟩ := Option.ne_none_iff_exists'.mp h
  simp only [setChipSelect, hc]
  exact State.advance_moves hs

theorem execStart_moves (hs : stackFits s.seq.stk s.seq.ust = true)
    (h : ∃ c, s.seq.shadow = some c ∧ c.mstren = true) : ∃ t, execStart s = .next t := by
  obtain ⟨c, hc, hm⟩ := h
  simp only [execStart, hc, hm]
  exact State.advance_moves hs

theorem execPop_moves (hs : stackFits s.seq.stk s.seq.ust = true) {dst : PopDest}
    (h : Instr.Ready s (.pop dst)) : ∃ t, execPop dst s = .next t := by
  have hread : stackFits (rxdRead s).seq.stk (rxdRead s).seq.ust = true := by rwa [rxdRead_seq]
  cases dst with
  | tmp => exact State.advance_moves (s := (rxdRead s).setSeq _) hread
  | discard => exact State.advance_moves hread
  | hbuf i =>
    have ha : aligned ((rxdRead s).hbuf i) = true := by rwa [State.hbuf, rxdRead_seq]
    rw [execPop, storePopped, memWrite_of_aligned ha]
    exact State.advance_moves hread

theorem execPoll_moves (hs : stackFits s.seq.stk s.seq.ust = true) (f : PollFlag) :
    ∃ t, execPoll f s = .next t := by
  cases hf : s.ctl.pollFlag f with
  | false => exact ⟨_, execPoll_of_clear hf⟩
  | true =>
    rw [execPoll_of_set hf]
    exact State.advance_moves hs

/-- An instruction that is ready is not refused, and its row ends. -/
theorem exec_moves (hs : stackFits s.seq.stk s.seq.ust = true) {i : Instr} (hi : Instr.Ready s i) :
    ∃ t, exec i s = .next t := by
  cases i with
  | csOn | csOff => exact setChipSelect_moves hs hi _
  | start => exact execStart_moves hs hi
  | setRxth n =>
    rw [exec, execSetRxth, ctlWriteRxThres_of_legal hi]
    exact State.advance_moves hs
  | setTxth n =>
    rw [exec, execSetTxth, ctlWriteTxThres_of_legal hi]
    exact State.advance_moves hs
  | pop dst => exact execPop_moves hs hi
  | poll f => exact execPoll_moves hs f
  | dat4 i =>
    rw [exec, execDat4_of_aligned hi]
    exact pushEntry_moves hs _ _
  | push | op1 | op2 | opr3 | adr3 | adr4 | opa4 | opz4 | fil4 => exact pushEntry_moves hs _ _
  | xfer | waitWip | programPage | rxDrain => exact ⟨_, rfl⟩
  | wireRdid | wireRdsr | wireRdsr2 | wireWren | wireWrr | wireRead | wirePp | wireSe | wireBe | wireCe =>
    exact ⟨_, rfl⟩
  | _ => cases hi

end

/-! ## What a run knows at its rows -/

/-- A command other than INIT has its `shadow`, in manual mode (R113). -/
theorem State.CommandPlan.shadow {s : State} (h : s.CommandPlan) (hu : s.seq.ust.uninitialised = false) :
    ∃ c, s.seq.shadow = some c ∧ c.mstren = true := by
  obtain ⟨mstren, initialised, -⟩ := h
  obtain ⟨hshadow, hmanual⟩ := initialised hu
  obtain ⟨c, hc⟩ := Option.ne_none_iff_exists'.mp hshadow
  exact ⟨c, hc, mstren c hc hmanual⟩

theorem aligned_iff (a : Word) : aligned a = true ↔ a.toNat % 4 = 0 := by
  simp [aligned, ← BitVec.toNat_inj]

/-- Every word of an aligned buffer is aligned (R71, R80). -/
theorem aligned_hbufAddr {ptr : Word} (h : aligned ptr = true) (i : Word) :
    aligned (hbufAddr ptr i) = true := by
  rw [aligned_iff] at h ⊢
  have hsum : (hbufAddr ptr i).toNat = (ptr.toNat + 4 * i.toNat) % 2 ^ 32 := by simp [hbufAddr]
  omega

/-- PROGRAM_PAGE's caller is WRITE, whose buffer is aligned (R80, R113). -/
theorem State.CommandPlan.aligned_page {s : State} (h : s.CommandPlan)
    (hs : stackFits s.seq.stk s.seq.ust = true) (hu : s.seq.ust.callers = [.label .wt3]) :
    aligned s.seq.ptr = true := by
  obtain ⟨-, -, -, -, buffer⟩ := h
  refine buffer (.inr ?_)
  cases hk : s.seq.stk with
  | nil => simp [hk, stackFits, hu] at hs
  | cons r rs =>
    simp only [hk, stackFits, hu, Bool.and_eq_true, List.contains_eq_mem, List.mem_singleton,
      decide_eq_true_eq] at hs
    exact ⟨r, List.mem_cons_self, hs.1⟩

/-- The chunk of a READ with words outstanding is a legal RX_THRES (R32, R254). -/
theorem Seq.ChunkPlan.legal {q : Seq} (h : q.ChunkPlan) (hrem : 0 < q.rxRem.toNat) :
    1 ≤ q.chunk.toNat ∧ q.chunk.toNat ≤ 63 := by
  obtain ⟨tail, full⟩ := h
  by_cases hle : q.rxRem.toNat ≤ 63
  · rw [tail hrem hle]
    exact ⟨hrem, hle⟩
  · rw [full (Nat.lt_of_not_le hle)]
    decide

/-- Every instruction row of a run is ready, whatever the FIFOs hold. -/
theorem microInstr_ready {s : State} (h : s.RunInvariant) : ∀ i ∈ microInstr s, Instr.Ready s i := by
  obtain ⟨⟨hs, -⟩, -, ⟨hrow, -⟩, -, hcmd, htx, hrx⟩ := h
  cases hu : s.seq.ust with
  | x2 | x6 | pp2 | pp13 | rd2 | rd16 =>
    obtain ⟨c, hc, -⟩ := hcmd.shadow (by rw [hu]; rfl)
    simp [microInstr, hu, Instr.Ready, hc]
  | x4 | pp6 | pp10 | rd4 | rd8 | rd15 =>
    simpa [microInstr, hu, Instr.Ready] using hcmd.shadow (by rw [hu]; rfl)
  | x1 | rd1 =>
    simp only [microInstr, hu, Option.mem_some_iff, forall_eq', Instr.Ready]
    omega
  | pp5 | pp11 | rd14 =>
    simp only [microInstr, hu, Option.mem_some_iff, forall_eq', Instr.Ready, Config.burst2,
      Config.thresTail, Config.pumpChunk]
    omega
  | rd13 =>
    simp only [State.RowPlan, hu] at hrow
    obtain ⟨-, hpos, -, -, hchunk⟩ := hrow
    obtain ⟨hge, hle⟩ := hchunk.legal hpos
    simpa [microInstr, hu, Instr.Ready] using ⟨hge, hle.trans hrx⟩
  | l6 =>
    simp only [State.RowPlan, hu] at hrow
    obtain ⟨-, hpos, hle, -⟩ := hrow
    simpa [microInstr, hu, Instr.Ready] using ⟨hpos, hle.trans hrx⟩
  | pp4 | pp9 =>
    have hptr := hcmd.aligned_page hs (by rw [hu]; rfl)
    simp [microInstr, hu, Instr.Ready, State.hbuf, aligned_hbufAddr hptr]
  | l5 =>
    obtain ⟨-, -, -, -, buffer⟩ := hcmd
    have hptr := buffer (.inl (by rw [hu]; rfl))
    simp [microInstr, hu, Instr.Ready, State.hbuf, aligned_hbufAddr hptr]
  | wt2 =>
    by_cases hi : s.seq.pageI.toNat < s.seq.chunks.toNat
    · simp [microInstr, hu, hi, Instr.Ready, Instr.isCommand]
    · simp [microInstr, hu, hi]
  | rd7 => cases hd : s.par.readDummy <;> simp [microInstr, hu, hd, Instr.Ready, Instr.isCommand]
  -- no instruction, or one that is never refused
  | _ => simp [microInstr, hu, Instr.Ready, Instr.isCommand]

/-! ## The other rows -/

/-- T1 finds the procedure of its command (Table 42-2). -/
theorem callForOp_moves {s : State} (h : 4 ≤ s.seq.op.toNat ∧ s.seq.op.toNat ≤ 7) :
    ∃ t, callForOp s = .next t := by
  have hop : s.seq.op.toNat = 4 ∨ s.seq.op.toNat = 5 ∨ s.seq.op.toNat = 6 ∨ s.seq.op.toNat = 7 := by
    omega
  obtain hop | hop | hop | hop := hop
  all_goals simp [callForOp, hop]

theorem localStep_moves {s : State} (h : s.RunInvariant) : ∃ t, localStep s = .next t := by
  obtain ⟨⟨hs, ht1⟩, -, -, -, -, htx, hrx⟩ := h
  have htx' : 1 ≤ s.par.txDepth := le_trans (by decide) htx
  have hrx' : 1 ≤ s.par.rxDepth := le_trans (by decide) hrx
  have returns {u : State} (hcallers : s.seq.ust.callers ≠ []) (hu : u.seq.stk = s.seq.stk) :
      ∃ t, u.doReturn = .next t := State.doReturn_moves hcallers (hu ▸ hs)
  have ends {u : State} (hu : u.seq.ust ≠ .x7) : ∃ t, u.advance = .next t := ⟨_, State.advance_of_ne hu⟩
  cases hu : s.seq.ust with
  | in1 | in2 | in3 | in4 | in5 | in8 | in9 | in10 =>
    simp only [localStep, hu]
    exact ends (by simp [hu, initReadConfig, initWriteConfig])
  | in6 =>
    have hw := ctlWriteRxThres_of_legal (s := s) (n := Config.thresInit) ⟨le_rfl, hrx'⟩
    simp only [localStep, hu, hw]
    exact ends (by simp [hu])
  | in7 =>
    have hw := ctlWriteTxThres_of_legal (s := s) (n := Config.thresInit) ⟨le_rfl, htx'⟩
    simp only [localStep, hu, hw]
    exact ends (by simp [hu])
  | dr1 =>
    simp only [localStep, hu]
    split
    · exact ⟨_, rfl⟩
    · exact returns (by rw [hu]; decide) rfl
  | we2 | rs2 | id2 =>
    simp only [localStep, hu, returnValue]
    exact returns (by rw [hu]; decide) rfl
  | ww2 =>
    simp only [localStep, hu]
    split
    · exact returns (by rw [hu]; decide) rfl
    · exact ⟨_, rfl⟩
  | rd0 =>
    simp only [localStep, hu]
    split <;> exact ⟨_, rfl⟩
  | t1 =>
    simp only [localStep, hu]
    exact callForOp_moves (ht1 hu)
  | _ =>
    simp only [localStep, hu]
    exact ⟨_, rfl⟩

/-- Settles O60: an instruction row is ready, and the other rows access nothing that can be refused. -/
theorem seqAlwaysMoves : Obligations.SeqAlwaysMoves := by
  intro s h
  cases hm : microInstr s with
  | some i =>
    rw [seqTurn_of_microInstr hm]
    have hready := microInstr_ready h i hm
    obtain ⟨⟨hs, -⟩, -⟩ := h
    exact exec_moves hs hready
  | none =>
    rw [seqTurn_of_no_microInstr hm]
    exact localStep_moves h

end Sys2Proof.Machine

/-! SUPPORT. Reset (70_reset_and_hazards.md): IDLE with no `shadow`, as power-on leaves SEQ (R330), meets every
part of the run invariant as long as nothing runs in the controller. -/

namespace Sys2Proof.Machine

/-! ## Before INIT: IDLE with no `shadow` (R41, R42, R330) -/

section
variable {s : State}

theorem State.stackInvariant_of_idle (hu : s.seq.ust = .idle) (hk : s.seq.stk = []) :
    s.StackInvariant := by
  simp [State.StackInvariant, hu, hk, stackFits, Label.callers]

theorem State.shadowInvariant_of_shadow_none (hn : s.seq.shadow = none) : s.ShadowInvariant := by
  simp [State.ShadowInvariant, hn]

theorem State.fifoPlan_of_idle (hu : s.seq.ust = .idle) (hn : s.seq.shadow = none) : s.FifoPlan := by
  simp [State.FifoPlan, State.RowPlan, hu, hn, Label.readPhases]

theorem State.framePlan_of_idle (hu : s.seq.ust = .idle) (hn : s.seq.shadow = none)
    (hr : s.ctl.running = false) : s.FramePlan := by
  simp [State.FramePlan, hu, hn, hr]

theorem State.commandPlan_of_idle (hu : s.seq.ust = .idle) (hk : s.seq.stk = [])
    (hn : s.seq.shadow = none) : s.CommandPlan := by
  simp [State.CommandPlan, hu, hk, hn, Label.uninitialised, Label.usesBuffer]

/-- No part of the invariant asks more of the controller than that nothing runs: its FIFOs, thresholds and
CONFIG are free before INIT. -/
theorem State.runInvariant_of_idle (hu : s.seq.ust = .idle) (hk : s.seq.stk = [])
    (hn : s.seq.shadow = none) (hr : s.ctl.running = false) (hd : s.par.DepthsSuffice) :
    s.RunInvariant :=
  ⟨stackInvariant_of_idle hu hk, shadowInvariant_of_shadow_none hn, fifoPlan_of_idle hu hn,
    framePlan_of_idle hu hn hr, commandPlan_of_idle hu hk hn, hd⟩

end

/-! ## The reset state -/

/-- Settles O8: each field as `Seq.reset` and `State.reset` give it. -/
theorem powerOnStateOfSeq : Obligations.PowerOnStateOfSeq :=
  ⟨rfl, rfl, rfl, rfl, rfl, rfl, rfl, rfl⟩

/-- Both FIFOs are empty at reset (log 7). -/
theorem State.reset_fifosBounded : State.reset.FifosBounded :=
  ⟨Nat.zero_le _, Nat.zero_le _⟩

theorem Params.defaults_depthsSuffice : Config.defaults.DepthsSuffice :=
  ⟨le_rfl, le_rfl⟩

/-- Settles O9: the reset state is IDLE with no `shadow`, by O8, and nothing runs in the controller
(log 7). -/
theorem resetMeetsTheInvariants : Obligations.ResetMeetsTheInvariants := by
  obtain ⟨hidle, hstk, -, -, hshadow, -⟩ := powerOnStateOfSeq
  exact ⟨rfl, State.reset_fifosBounded,
    State.runInvariant_of_idle hidle hstk hshadow rfl Params.defaults_depthsSuffice⟩

end Sys2Proof.Machine

/-! SUPPORT. The STATUS flags (R31), the primitives that read `shadow` (R22), and where a finished row goes
(Tables 40-2 to 45-1). -/

namespace Sys2Proof.Machine

/-- Settles O10: each flag is one comparison, and the read is its record. -/
theorem statusFlagsCompareLevels : Obligations.StatusFlagsCompareLevels := by
  intro s
  refine ⟨?_, ?_, ?_, rfl⟩
  · rw [Ctl.rxne, decide_eq_true_eq]
  · rw [Ctl.txnf, decide_eq_true_eq]
  · rw [Ctl.txfull, decide_eq_true_eq]

/-- CS_ON and CS_OFF read `shadow` first (R22, R170, R171). -/
theorem setChipSelect_of_shadow_none {s : State} (h : s.seq.shadow = none) (l : CsLevel) :
    setChipSelect l s = .refused .notInitialised := by
  simp only [setChipSelect, h]

/-- START reads `shadow` first (R22, R172). -/
theorem execStart_of_shadow_none {s : State} (h : s.seq.shadow = none) :
    execStart s = .refused .notInitialised := by
  simp only [execStart, h]

theorem execStart_of_mstren_false {c : CtlConfig} {s : State} (h : s.seq.shadow = some c)
    (hm : c.mstren = false) : execStart s = .refused .autoMode := by
  simp [execStart, h, hm]

/-- Settles O19: each of the three looks at `shadow` before anything else, START then at MSTREN. -/
theorem configPrimitivesNeedAShadow : Obligations.ConfigPrimitivesNeedAShadow := by
  refine ⟨fun i hi s h => ?_, fun c s h hm => execStart_of_mstren_false h hm⟩
  simp only [List.mem_cons, List.not_mem_nil, or_false] at hi
  obtain rfl | rfl | rfl := hi
  · exact setChipSelect_of_shadow_none h .asserted
  · exact setChipSelect_of_shadow_none h .deasserted
  · exact execStart_of_shadow_none h

/-- The rows whose end is a burst's count, a choice, or a new chunk; every other row goes to its one
successor. -/
def Label.countedRows : List Label := [.pp3, .pp4, .pp9, .rd12, .rd13, .l3, .l5, .l6]

theorem Seq.afterRow_of_plain {q : Seq} (h : q.ust ∉ Label.countedRows) :
    q.afterRow = { q with ust := q.ust.succ } := by
  unfold Seq.afterRow
  split
  case h_9 => rfl
  all_goals simp_all [Label.countedRows]

theorem Seq.afterRow_pp3 {q : Seq} (h : q.ust = .pp3) : q.afterRow = { q with k := 0, ust := .pp4 } := by
  simp [Seq.afterRow, h]

theorem Seq.afterRow_pp4 {q : Seq} (h : q.ust = .pp4) :
    q.afterRow = if q.k.toNat + 1 < 16 then { q with k := q.k + 1 } else { q with k := 16, ust := .pp5 } := by
  simp [Seq.afterRow, h, Config.burst1]

theorem Seq.afterRow_pp9 {q : Seq} (h : q.ust = .pp9) :
    q.afterRow = q.burst 64 fun q => { q with ust := .pp10 } := by
  simp [Seq.afterRow, h, Config.pageWords]

theorem Seq.afterRow_rd12 {q : Seq} (h : q.ust = .rd12) :
    q.afterRow = q.burst q.n.toNat fun q => { q with ust := .rd13 } := by
  simp [Seq.afterRow, h]

theorem Seq.afterRow_rd13 {q : Seq} (h : q.ust = .rd13) :
    q.afterRow = { q with ust := if 63 < q.count.toNat then .rd14 else .rd15 } := by
  simp only [Seq.afterRow, h]
  rfl

/-- Settles O36: the plain rows by their column, the bursts before and at their last push. -/
theorem finishedRowsGoWhereTheirTableSays : Obligations.FinishedRowsGoWhereTheirTableSays := by
  refine ⟨fun r hr q hq => ?plain, fun q => ⟨q.afterRow_stk, q.afterRow_shadow⟩,
    fun q hq => Seq.afterRow_pp3 hq, fun q hq _ => ⟨fun hk => ?_, fun hk => ?_⟩,
    fun q hq _ => ⟨fun hk => ?_, fun hk => ?_⟩, fun q hq _ => ⟨fun hk => ?_, fun hk => ?_⟩,
    fun q hq => Seq.afterRow_rd13 hq⟩
  case plain =>
    have hrow : r.1 ∉ Label.countedRows ∧ r.1.succ = r.2 := by
      clear hq
      revert r
      decide
    rw [Seq.afterRow_of_plain (hq ▸ hrow.1), hq, hrow.2]
  · rw [Seq.afterRow_pp4 hq, if_pos (by omega)]
  · rw [Seq.afterRow_pp4 hq, if_neg (by omega)]
  · rw [Seq.afterRow_pp9 hq, Seq.burst_of_lt (by omega)]
  · rw [Seq.afterRow_pp9 hq, Seq.burst_of_last (by omega)]
  · rw [Seq.afterRow_rd12 hq, Seq.burst_of_lt hk]
  · rw [Seq.afterRow_rd12 hq, Seq.burst_of_last hk]

end Sys2Proof.Machine

/-! SUPPORT. How SEQ moves through the step tables (R23, R180): along a table, into a procedure, or back to a
caller; and what it leaves alone on the way. -/

namespace Sys2Proof.Machine

/-! ## The graph of the step tables -/

/-- Where a row goes within its table, the row itself where it can stay (polls, bursts). -/
def Label.goes : Label → List Label
  -- polls
  | .x5 => [.x5, .x6]
  | .pp7 => [.pp7, .pp8]
  | .pp12 => [.pp12, .pp13]
  | .rd5 => [.rd5, .rd6]
  | .rd9 => [.rd9, .rd10]
  -- bursts
  | .pp4 => [.pp4, .pp5]
  | .pp9 => [.pp9, .pp10]
  | .rd12 => [.rd12, .rd13]
  | .l3 => [.l3, .l4]
  | .l5 => [.l5, .l6, .l1]
  -- tests
  | .dr1 => [.dr2]
  | .wt2 => [.done]
  | .ww2 => [.ww1]
  | .rd0 => [.done, .rd1]
  | .rd13 => [.rd14, .rd15]
  | .l1 => [.rd16, .l4, .l2]
  | .l2 => [.l3, .l4]
  | .l4 => [.l5, .l1]
  -- calls and returns
  | .x7 | .we1 | .we2 | .rs1 | .rs2 | .id1 | .id2 | .wr1 | .wr2 | .er1 | .er2 | .er3 | .t1 | .pp1 | .pp8
  | .pp14 | .pp15 | .ww1 => []
  | l => [l.succ]

/-- The first rows of the procedures a row calls. -/
def Label.calls : Label → List Label
  | .we1 | .rs1 | .id1 | .wr2 | .er2 => [.x1]
  | .wr1 | .er1 | .pp1 => [.we1]
  | .t1 => [.id1, .rs1, .we1]
  | .ww1 => [.rs1]
  | .er3 | .pp15 => [.ww1]
  | .wt2 => [.pp1]
  | .pp8 | .pp14 => [.dr1]
  | _ => []

/-- The rows that can return. -/
def Label.returns : List Label := [.x7, .we2, .rs2, .id2, .dr1, .ww2]

/-- SEQ goes on within a table, calls a procedure, or returns to a caller with the registers `q`. -/
inductive Seq.Flow (a b : Seq) : Prop where
  | goes (label : b.ust ∈ a.ust.goes) (stk : b.stk = a.stk)
  | calls (label : b.ust ∈ a.ust.calls) (stk : b.stk = a.returnRecord :: a.stk)
  | returns (q : Seq) (label : a.ust ∈ Label.returns) (back : Seq.returnVia a.stk q = some b)

/-- The rows that make an access and end in the next row of their table (and X7, which returns). -/
def Label.accessRows : List Label :=
  [.dr2, .x1, .x2, .x3, .x4, .x5, .x6, .x7, .pp2, .pp3, .pp4, .pp5, .pp6, .pp7, .pp9, .pp10, .pp11, .pp12,
    .pp13, .rd1, .rd2, .rd3, .rd4, .rd5, .rd6, .rd7, .rd8, .rd9, .rd10, .rd12, .rd13, .rd14, .rd15, .rd16,
    .l3, .l5, .l6]

/-- The first row of the procedure that the instruction calls (R180). -/
def Instr.callee : Instr → Option Label
  | .xfer _ _ => some .x1
  | .waitWip => some .ww1
  | .programPage _ _ => some .pp1
  | .rxDrain => some .dr1
  | _ => none

/-- An instruction row makes an access, at which a POLL may stay, or calls a procedure. -/
theorem microInstr_row {i : Instr} {s : State} (h : microInstr s = some i) :
    (Instr.isAccess i = true ∧ s.seq.ust ∈ Label.accessRows ∧
        ∀ f, i = .poll f → s.seq.ust ∈ s.seq.ust.goes) ∨
      ∃ l ∈ s.seq.ust.calls, Instr.callee i = some l := by
  cases hu : s.seq.ust <;> simp only [microInstr, hu, reduceCtorEq] at h
  case we1 | rs1 | id1 | wr2 | er2 | er3 | pp8 | pp14 | pp15 =>
    cases h
    exact .inr ⟨_, List.mem_singleton_self _, rfl⟩
  case wt2 =>
    split at h
    · cases h
      exact .inr ⟨_, List.mem_singleton_self _, rfl⟩
    · cases h
  case x5 | pp7 | pp12 | rd5 | rd9 =>
    cases h
    exact .inl ⟨rfl, by decide, fun _ _ => by decide⟩
  case rd7 =>
    cases h
    cases s.par.readDummy <;> exact .inl ⟨rfl, by decide, nofun⟩
  all_goals
    cases h
    exact .inl ⟨rfl, by decide, nofun⟩

/-- A call pushes its record, goes to its procedure, and binds its arguments. -/
theorem exec_of_callee {i : Instr} {l : Label} {s t : State} (hi : Instr.callee i = some l)
    (h : exec i s = .next t) :
    ∃ q, t = s.setSeq q ∧ q.ust = l ∧ q.stk = s.seq.returnRecord :: s.seq.stk := by
  cases i with
  | xfer | waitWip | programPage | rxDrain =>
    cases hi
    cases h
    exact ⟨_, rfl, rfl, rfl⟩
  | _ => cases hi

/-- A finished row goes on within its table. -/
theorem Seq.afterRow_ust_mem {q : Seq} (h : q.ust ∈ Label.accessRows ++ Label.initRows)
    (hx : q.ust ≠ .x7) : q.afterRow.ust ∈ q.ust.goes := by
  by_cases hc : q.ust ∈ Label.countedRows
  · simp only [Label.countedRows, List.mem_cons, List.not_mem_nil, or_false] at hc
    obtain hu | hu | hu | hu | hu | hu | hu | hu := hc
    · rw [Seq.afterRow_pp3 hu, hu]
      exact List.mem_singleton_self _
    · rw [Seq.afterRow_pp4 hu, hu]
      split <;> simp [Label.goes]
    · rw [Seq.afterRow_pp9 hu, Seq.burst, hu]
      split <;> simp [Label.goes]
    · rw [Seq.afterRow_rd12 hu, Seq.burst, hu]
      split <;> simp [Label.goes]
    · rw [Seq.afterRow_rd13 hu, hu]
      dsimp only
      split <;> decide
    · rw [Seq.afterRow_l3 hu, Seq.burst, hu]
      split <;> simp [Label.goes, Seq.afterRefill]
    · rw [Seq.afterRow_l5 hu, Seq.burst, hu]
      split
      · simp [Label.goes]
      · dsimp only [Seq.afterDrain]
        split <;> decide
    · rw [Seq.afterRow_l6 hu, hu]
      exact List.mem_singleton_self _
  · have plain : ∀ l ∈ Label.accessRows ++ Label.initRows, l ≠ .x7 → l ∉ Label.countedRows →
        l.succ ∈ l.goes := by decide
    rw [Seq.afterRow_of_plain hc]
    exact plain _ h hx hc

/-- The end of the row of `s`, whose access has made `u`, is a move along its table or X7's return. -/
theorem State.advance_flow {s t u : State} (h : u.advance = .next t)
    (hr : s.seq.ust ∈ Label.accessRows ++ Label.initRows) (hu : u.seq.ust = s.seq.ust)
    (hk : u.seq.stk = s.seq.stk) : s.seq.Flow t.seq := by
  by_cases hx : u.seq.ust = .x7
  · rw [State.advance_of_x7 hx] at h
    obtain ⟨q, hq, rfl⟩ := State.doReturn_eq_next h
    exact .returns u.seq (by rw [← hu, hx]; decide) (hk ▸ hq)
  · rw [State.advance_of_ne hx] at h
    cases h
    exact .goes (hu ▸ Seq.afterRow_ust_mem (hu ▸ hr) hx) (u.seq.afterRow_stk.trans hk)

theorem exec_flow {i : Instr} {s t : State} (hi : microInstr s = some i) (h : exec i s = .next t) :
    s.seq.Flow t.seq := by
  obtain ⟨ha, hrow, hpoll⟩ | ⟨l, hl, hc⟩ := microInstr_row hi
  · obtain ⟨u, ⟨c, w, hu⟩, hadv | ⟨⟨f, hf, -⟩, rfl⟩⟩ := exec_access h ha
    · exact State.advance_flow hadv (List.mem_append_left _ hrow) (by rw [hu]) (by rw [hu])
    · exact .goes (by rw [hu]; exact hpoll f hf) (by rw [hu])
  · obtain ⟨q, rfl, rfl, hk⟩ := exec_of_callee hc h
    exact .calls hl hk

/-! ## Rows that are no instruction -/

theorem State.doReturn_flow {s t u : State} (h : u.doReturn = .next t) (hr : s.seq.ust ∈ Label.returns)
    (hk : u.seq.stk = s.seq.stk) : s.seq.Flow t.seq := by
  obtain ⟨q, hq, rfl⟩ := State.doReturn_eq_next h
  exact .returns u.seq hr (hk ▸ hq)

theorem localStep_flow {s t : State} (hi : microInstr s = none) (h : localStep s = .next t) :
    s.seq.Flow t.seq := by
  have goes {l : Label} (hu : s.seq.ust = l) (hl : l.goes.contains t.seq.ust = true)
      (hk : t.seq.stk = s.seq.stk) : s.seq.Flow t.seq := .goes (hu ▸ List.contains_iff_mem.mp hl) hk
  have calls {l : Label} (hu : s.seq.ust = l) (hl : l.calls.contains t.seq.ust = true)
      (hk : t.seq.stk = s.seq.returnRecord :: s.seq.stk) : s.seq.Flow t.seq :=
    .calls (hu ▸ List.contains_iff_mem.mp hl) hk
  cases hu : s.seq.ust <;> simp only [localStep, hu] at h
  case in1 | in2 | in5 | in8 | in9 | in10 => exact State.advance_flow h (by rw [hu]; decide) rfl rfl
  case in3 =>
    exact State.advance_flow h (by rw [hu]; decide) (by rw [platSetReset_seq]) (by rw [platSetReset_seq])
  case in4 =>
    exact State.advance_flow h (by rw [hu]; decide) (by rw [platClearReset_seq])
      (by rw [platClearReset_seq])
  case in6 =>
    obtain ⟨u, hw, ha⟩ := Result.andThen_eq_next h
    obtain ⟨-, rfl⟩ := ctlWriteRxThres_eq_next hw
    exact State.advance_flow ha (by rw [hu]; decide) rfl rfl
  case in7 =>
    obtain ⟨u, hw, ha⟩ := Result.andThen_eq_next h
    obtain ⟨-, rfl⟩ := ctlWriteTxThres_eq_next hw
    exact State.advance_flow ha (by rw [hu]; decide) rfl rfl
  case we2 | rs2 | id2 => exact State.doReturn_flow h (by rw [hu]; decide) rfl
  case dr1 =>
    split at h
    · cases h
      exact goes hu rfl rfl
    · exact State.doReturn_flow h (by rw [hu]; decide) rfl
  case ww2 =>
    split at h
    · exact State.doReturn_flow h (by rw [hu]; decide) rfl
    · cases h
      exact goes hu rfl rfl
  case wr1 | er1 | pp1 | ww1 =>
    cases h
    exact calls hu rfl rfl
  case t1 =>
    unfold callForOp at h
    split at h <;> cases h <;> exact calls hu rfl rfl
  case rd0 => split at h <;> cases h <;> exact goes hu rfl rfl
  case rd11 =>
    cases h
    by_cases hc : 63 < s.seq.count.toNat
    · rw [Seq.pumpSetup_of_gt hc] at goes ⊢
      exact goes hu rfl rfl
    · rw [Seq.pumpSetup_of_le (Nat.le_of_not_lt hc)] at goes ⊢
      exact goes hu rfl rfl
  case l1 =>
    cases h
    refine .goes ?_ rfl
    rw [hu, State.setSeq_seq, Seq.pumpTurn]
    dsimp only
    split_ifs <;> decide
  case l2 =>
    cases h
    cases hf : s.ctl.txnf <;> rw [hf] at goes <;> exact goes hu rfl rfl
  case l4 =>
    cases h
    cases hf : s.ctl.rxne <;> rw [hf] at goes <;> exact goes hu rfl rfl
  case idle =>
    cases h
    exact .goes (by rw [hu]; decide) rfl
  case done | in11 | wr3 | er4 | t2 | wt1 | wt2 | wt3 | rd17 =>
    cases h
    exact goes hu rfl rfl
  all_goals simp [microInstr, hu] at hi

/-- SEQ's turn follows the step tables. -/
theorem seqTurn_flow {s t : State} (h : seqTurn s = .next t) : s.seq.Flow t.seq := by
  cases hi : microInstr s with
  | some i => exact exec_flow hi ((seqTurn_of_microInstr hi).symm.trans h)
  | none => exact localStep_flow hi ((seqTurn_of_no_microInstr hi).symm.trans h)

/-- The agents' turns, at the state whose turn has been taken. -/
theorem step_turn {s t : State} (h : step s = .next t) :
    seqTurn s.tick = .next t ∨ engStep s.tick = .next t ∨ hostTurn s.tick = .next t := by
  obtain ⟨-, hturn⟩ | ⟨-, hturn⟩ | ⟨-, hturn⟩ := step_cases s <;> rw [hturn] at h
  · exact .inl h
  · exact .inr (.inl h)
  · exact .inr (.inr h)

end Sys2Proof.Machine

/-! SUPPORT. What ENG and HOST do to the state in one turn (R280, R285), as far as an invariant can see. -/

namespace Sys2Proof.Machine

/-! ## ENG -/

/-- One shift: TXQ loses its head, RXQ gains a word or overruns, and `running` follows TXQ (R280 to
R282); nothing else changes but WIRE and DEV. -/
structure Shifted (s t : State) : Prop where
  seq : t.seq = s.seq
  par : t.par = s.par
  plat : t.plat = s.plat
  en : t.ctl.en = s.ctl.en
  config : t.ctl.config = s.ctl.config
  rxThres : t.ctl.rxThres = s.ctl.rxThres
  txThres : t.ctl.txThres = s.ctl.txThres
  txOverflow : t.flags.txOverflow = s.flags.txOverflow
  rxUnderflow : t.flags.rxUnderflow = s.flags.rxUnderflow
  wasRunning : s.ctl.running = true
  running : t.ctl.running = runningAfterShift s.par t.ctl.txq true
  txq : t.ctl.txq.length + 1 = s.ctl.txq.length
  delivered : s.ctl.rxq.length < s.par.rxDepth → t.ctl.rxq.length = s.ctl.rxq.length + 1
  overrun : s.par.rxDepth ≤ s.ctl.rxq.length → t.ctl.rxq.length = s.ctl.rxq.length

/-- ENG's turn is one shift, or nothing. -/
theorem engStep_shifted {s t : State} (h : engStep s = .next t) : t = s ∨ Shifted s t := by
  obtain rfl | ⟨e, q, he, -, hq, rfl⟩ := engStep_eq_next h
  · exact .inl rfl
  obtain ⟨-, hrun, -⟩ := (State.engEnabled_iff s).mp he
  obtain ⟨w, d, x, hx⟩ := shiftEntry_eq e q s
  rw [hx]
  by_cases hroom : s.ctl.rxq.length < s.par.rxDepth
  · rw [if_pos hroom]
    exact .inr ⟨rfl, rfl, rfl, rfl, rfl, rfl, rfl, rfl, rfl, hrun, by rw [hrun], by simp [hq], fun _ => by simp,
      fun hfull => absurd hroom (Nat.not_lt.mpr hfull)⟩
  · rw [if_neg hroom]
    exact .inr ⟨rfl, rfl, rfl, rfl, rfl, rfl, rfl, rfl, rfl, hrun, by rw [hrun], by simp [hq],
      fun h => absurd h hroom, fun _ => rfl⟩

/-! ## HOST -/

/-- What acceptance has checked of the command with operation number `op` (R113). -/
structure State.Accepts (s : State) (op : BitVec 4) (d : Desc) : Prop where
  op_le : op.toNat ≤ 8
  idle : s.seq.ust = .idle
  initialised : op ≠ 0 → s.seq.shadow ≠ none ∧ s.seq.manual = true
  aligned : op = 1 ∨ op = 2 → d.count ≠ 0 → aligned d.ptr = true

/-- A command that is not refused meets R113 and is accepted (R114). -/
theorem exec_commandOf_eq_next {op : BitVec 4} {d : Desc} {s t : State}
    (h : exec (commandOf op d) s = .next t) :
    s.Accepts op d ∧ t = s.accepted op (firstStep op) d := by
  rw [exec_commandOf] at h
  split_ifs at h with hreserved hbusy hshadow hmanual hptr
  cases h
  refine ⟨⟨by omega, ?_, fun h0 => ⟨fun hn => hshadow ⟨h0, hn⟩, ?_⟩, fun h12 hc => ?_⟩, rfl⟩
  · exact Decidable.not_not.mp fun hu => hbusy (.inr hu)
  · exact Bool.eq_true_of_not_eq_false fun hf => hmanual ⟨h0, hf⟩
  · exact Bool.eq_true_of_not_eq_false fun hf => hptr ⟨h12, hc, hf⟩

theorem hostCommand_accepts {d0 d1 d2 d3 : Word} {s t : State}
    (h : hostCommand d0 d1 d2 d3 s = .next t) :
    ∃ op d, s.Accepts op d ∧ t = s.accepted op (firstStep op) d := by
  unfold hostCommand at h
  split at h
  · obtain ⟨-, rfl⟩ := decodeCommand_eq_ok (by assumption)
    exact ⟨_, _, exec_commandOf_eq_next h⟩
  · cases h

/-- HOST's turn accepts a command, or touches HMEM and HOST's own record only. -/
theorem hostTurn_cases {s t : State} (h : hostTurn s = .next t) :
    (∃ m x, t = { s with hmem := m, host := x }) ∨
      ∃ op d x, s.Accepts op d ∧ t = { s.accepted op (firstStep op) d with host := x } := by
  obtain ⟨-, rfl⟩ | ⟨m, ms, -, hm⟩ := hostTurn_eq_next h
  · exact .inl ⟨_, _, rfl⟩
  obtain hn | ⟨e, -, rfl⟩ := hostMakes_eq_next hm
  · cases m with
    | command d0 d1 d2 d3 =>
      obtain ⟨op, d, ha, rfl⟩ := hostCommand_accepts hn
      exact .inr ⟨op, d, _, ⟨ha.op_le, ha.idle, ha.initialised, ha.aligned⟩, rfl⟩
    | readResult =>
      obtain ⟨-, rfl⟩ := hostRead_eq_next hn
      exact .inl ⟨_, _, rfl⟩
    | memRead a =>
      obtain ⟨-, -, rfl⟩ := hostMemRead_eq_next hn
      exact .inl ⟨_, _, rfl⟩
    | memWrite a v =>
      obtain ⟨-, -, rfl⟩ := hostMemWrite_eq_next hn
      exact .inl ⟨_, _, rfl⟩
  · exact .inl ⟨_, _, rfl⟩

end Sys2Proof.Machine

/-! SUPPORT. The return stack (R23, R180): the chain of calls that leads to the row, on every step; its depth,
and that no return meets an empty stack. -/

namespace Sys2Proof.Machine

/-! ## The chain of calls along a step -/

/-- The place in the caller's table that a call from the row resumes at. -/
def Label.resume : Label → Resume
  | .pp15 => .ret
  | l => .label l.succ

theorem Seq.returnRecord_resume_eq (q : Seq) : q.returnRecord.resume = q.ust.resume := by
  unfold Seq.returnRecord Label.resume
  split <;> simp_all

/-- A row goes on in the same procedure. -/
theorem Label.callers_of_goes (l : Label) :
    ∀ m ∈ l.goes, m.callers = l.callers ∧ m ≠ .t1 := by
  cases l <;> decide

/-- A call's record is one of its procedure's, and resumes in the caller's procedure. -/
theorem Label.callers_of_calls (l : Label) :
    ∀ m ∈ l.calls, m.callers.contains l.resume = true ∧ l.resume.site.callers = l.callers ∧ m ≠ .t1 := by
  cases l <;> decide

theorem Label.callers_of_returns : ∀ l ∈ Label.returns, l.callers ≠ [] := by decide

/-- The stack fits the row SEQ goes to, which is not T1: only acceptance leads there. -/
theorem Seq.Flow.stackFits {a b : Seq} (h : a.Flow b) (hs : stackFits a.stk a.ust = true) :
    Machine.stackFits b.stk b.ust = true ∧ b.ust ≠ .t1 := by
  obtain ⟨hl, hk⟩ | ⟨hl, hk⟩ | ⟨q, hl, hq⟩ := h
  · obtain ⟨hcallers, ht1⟩ := a.ust.callers_of_goes _ hl
    exact ⟨by rw [hk, stackFits_congr hcallers, hs], ht1⟩
  · obtain ⟨hresume, hsite, ht1⟩ := a.ust.callers_of_calls _ hl
    refine ⟨?_, ht1⟩
    rw [hk, Machine.stackFits, a.returnRecord_resume_eq, hresume, stackFits_congr hsite, hs]
    rfl
  · exact stackFits_returnVia (Label.callers_of_returns _ hl) hs hq

/-- A command starts in a row of no procedure, and at T1 only the four of Table 42-2 (Table 30-2). -/
theorem firstStep_callers {op : BitVec 4} (h : op.toNat ≤ 8) :
    (firstStep op).callers = [] ∧ (firstStep op = .t1 → 4 ≤ op.toNat ∧ op.toNat ≤ 7) := by
  decide +revert

theorem State.StackInvariant.congr {s t : State} (hs : s.StackInvariant) (h : t.seq = s.seq) :
    t.StackInvariant := by
  rwa [State.StackInvariant, h]

/-- Settles O53, agent by agent: SEQ follows the step tables, and a command starts with the stack empty. -/
theorem stepKeepsStackInvariant : Obligations.StepKeepsStackInvariant := by
  intro s t hs h
  obtain h | h | h := step_turn h
  · obtain ⟨hfits, ht1⟩ := (seqTurn_flow h).stackFits hs.1
    exact ⟨hfits, fun hu => absurd hu ht1⟩
  · obtain rfl | hshift := engStep_shifted h
    · exact hs
    · exact State.StackInvariant.congr (s := s) hs hshift.seq
  · obtain ⟨m, x, rfl⟩ | ⟨op, d, x, ha, rfl⟩ := hostTurn_cases h
    · exact hs
    · obtain ⟨hcallers, hop⟩ := firstStep_callers ha.op_le
      exact ⟨List.isEmpty_iff.mpr hcallers, hop⟩

/-! ## Its depth (R23) -/

/-- The most records under a row of each procedure: XFER's chain is READ_SR, WAIT_WIP, PROGRAM_PAGE and
WRITE (R180). -/
def Label.depth : Label → Nat
  | .x1 | .x2 | .x3 | .x4 | .x5 | .x6 | .x7 => 4
  | .rs1 | .rs2 => 3
  | .we1 | .we2 | .ww1 | .ww2 | .dr1 | .dr2 => 2
  | .id1 | .id2
  | .pp1 | .pp2 | .pp3 | .pp4 | .pp5 | .pp6 | .pp7 | .pp8 | .pp9 | .pp10 | .pp11 | .pp12 | .pp13
  | .pp14 | .pp15 => 1
  | _ => 0

theorem Label.depth_le (l : Label) : l.depth ≤ 4 := by
  cases l <;> decide

/-- A caller stands less deep than its callee. -/
theorem Label.depth_of_callers (l : Label) : ∀ r ∈ l.callers, r.site.depth < l.depth := by
  cases l <;> decide

theorem length_le_depth {rs : List Record} {l : Label} (h : stackFits rs l = true) :
    rs.length ≤ l.depth := by
  induction rs generalizing l with
  | nil => exact Nat.zero_le _
  | cons r rs ih =>
    rw [stackFits, Bool.and_eq_true, List.contains_iff_mem] at h
    obtain ⟨hr, hrest⟩ := h
    exact (ih hrest).trans_lt (l.depth_of_callers _ hr)

/-! ## No fault (R180) -/

theorem Result.ne_fault_of_next {r : Result} (h : ∃ t, r = .next t) (e : Fault) : r ≠ .fault e := by
  obtain ⟨t, rfl⟩ := h
  exact nofun

/-- An instruction of SEQ that is not ready is refused. -/
theorem exec_of_not_ready {i : Instr} {s : State} (hc : Instr.isCommand i = false)
    (h : ¬ Instr.Ready s i) : ∃ e, exec i s = .refused e := by
  cases i with
  | csOn | csOff => exact ⟨_, setChipSelect_of_shadow_none (Decidable.not_not.mp h) _⟩
  | start =>
    cases hs : s.seq.shadow with
    | none => exact ⟨_, execStart_of_shadow_none hs⟩
    | some c =>
      have hm : c.mstren = false := Bool.eq_false_of_not_eq_true fun hm => h ⟨c, hs, hm⟩
      exact ⟨_, execStart_of_mstren_false hs hm⟩
  | setRxth n => exact ⟨_, congrArg (Result.andThen · _) (ctlWriteRxThres_of_illegal h)⟩
  | setTxth n => exact ⟨_, congrArg (Result.andThen · _) (ctlWriteTxThres_of_illegal h)⟩
  | pop dst =>
    cases dst with
    | hbuf i =>
      have ha : ¬ aligned ((rxdRead s).hbuf i) = true := by rwa [State.hbuf, rxdRead_seq]
      exact ⟨_, congrArg (Result.andThen · _) (if_neg ha)⟩
    | tmp | discard => exact absurd hc h
  | dat4 i => exact ⟨_, if_neg h⟩
  | _ => exact absurd hc h

/-- The instructions of the step tables are no commands, which are HOST's. -/
theorem not_isCommand_of_microInstr {i : Instr} {s : State} (h : microInstr s = some i) :
    Instr.isCommand i = false := by
  obtain ⟨ha, -⟩ | ⟨l, -, hl⟩ := microInstr_row h
  · refine Bool.eq_false_of_not_eq_true fun hc => ?_
    obtain ⟨-, hna⟩ := not_isOpcode_not_isAccess_of_isCommand hc
    exact Bool.false_ne_true (hna.symm.trans ha)
  · cases i with
    | xfer | waitWip | programPage | rxDrain => rfl
    | _ => cases hl

theorem exec_ne_fault {i : Instr} {s : State} (hs : stackFits s.seq.stk s.seq.ust = true)
    (hi : microInstr s = some i) (e : Fault) : exec i s ≠ .fault e := by
  by_cases hready : Instr.Ready s i
  · exact Result.ne_fault_of_next (exec_moves hs hready) e
  · obtain ⟨r, hr⟩ := exec_of_not_ready (not_isCommand_of_microInstr hi) hready
    rw [hr]
    exact nofun

theorem localStep_ne_fault {s : State} (h : s.StackInvariant) (e : Fault) : localStep s ≠ .fault e := by
  obtain ⟨hs, ht1⟩ := h
  have returns {u : State} (hl : s.seq.ust.callers ≠ []) (hu : u.seq.stk = s.seq.stk) :
      u.doReturn ≠ .fault e := Result.ne_fault_of_next (State.doReturn_moves hl (hu ▸ hs)) e
  have ends {u : State} (hu : u.seq.ust ≠ .x7) : u.advance ≠ .fault e :=
    Result.ne_fault_of_next ⟨_, State.advance_of_ne hu⟩ e
  cases hu : s.seq.ust <;> simp only [localStep, hu]
  case in1 | in2 | in3 | in4 | in5 | in8 | in9 | in10 =>
    exact ends (by simp [hu, initReadConfig, initWriteConfig])
  case in6 =>
    unfold ctlWriteRxThres
    split
    · exact ends (by simp [hu])
    · exact nofun
  case in7 =>
    unfold ctlWriteTxThres
    split
    · exact ends (by simp [hu])
    · exact nofun
  case we2 | rs2 | id2 => exact returns (by rw [hu]; decide) rfl
  case dr1 =>
    split
    · exact nofun
    · exact returns (by rw [hu]; decide) rfl
  case ww2 =>
    split
    · exact returns (by rw [hu]; decide) rfl
    · exact nofun
  case t1 => exact Result.ne_fault_of_next (callForOp_moves (ht1 hu)) e
  case rd0 => split <;> exact nofun
  all_goals exact nofun

theorem seqTurn_ne_fault {s : State} (h : s.StackInvariant) (e : Fault) : seqTurn s ≠ .fault e := by
  cases hi : microInstr s with
  | some i =>
    rw [seqTurn_of_microInstr hi]
    exact exec_ne_fault h.1 hi e
  | none =>
    rw [seqTurn_of_no_microInstr hi]
    exact localStep_ne_fault h e

theorem engStep_ne_fault (s : State) (e : Fault) : engStep s ≠ .fault e := by
  unfold engStep
  split
  · split <;> exact nofun
  · exact nofun

/-- HOST's moves are accepted, made or refused. -/
theorem hostMove_ne_fault (m : HostMove) (s : State) (e : Fault) : hostMove m s ≠ .fault e := by
  cases m with
  | command d0 d1 d2 d3 =>
    simp only [hostMove, hostCommand]
    split
    · obtain ⟨-, rfl⟩ := decodeCommand_eq_ok (by assumption)
      rw [exec_commandOf]
      split_ifs <;> exact nofun
    · exact nofun
  | readResult =>
    simp only [hostMove, hostRead]
    split <;> exact nofun
  | memRead a =>
    simp only [hostMove, hostMemRead, hostRead]
    split
    · rw [Result.andThen_next]
      split <;> exact nofun
    · exact nofun
  | memWrite a v =>
    simp only [hostMove, hostMemWrite, memWrite]
    split
    · split <;> exact nofun
    · exact nofun

theorem hostTurn_ne_fault (s : State) (e : Fault) : hostTurn s ≠ .fault e := by
  cases hm : s.host.moves with
  | nil =>
    rw [hostTurn, hm]
    exact nofun
  | cons m ms =>
    rw [hostTurn_of_cons hm]
    unfold hostOutcome
    split
    · exact nofun
    · exact absurd (by assumption) (hostMove_ne_fault m _ _)
    · exact nofun

/-- Settles O54: the depth of the row's procedure bounds the stack, and a fault needs a return that finds
no record. -/
theorem stackIsAtMostFourDeep : Obligations.StackIsAtMostFourDeep := by
  intro s hs
  refine ⟨(length_le_depth hs.1).trans s.seq.ust.depth_le, fun e => ?_⟩
  obtain ⟨-, hturn⟩ | ⟨-, hturn⟩ | ⟨-, hturn⟩ := step_cases s <;> rw [hturn]
  · exact seqTurn_ne_fault (s := s.tick) hs e
  · exact engStep_ne_fault s.tick e
  · exact hostTurn_ne_fault s.tick e

end Sys2Proof.Machine

/-! SUPPORT. What SEQ's turn does to the machine around its registers: the FIFOs at a push and a pop, INIT's
rows, and the rows that touch registers only; the flags and traces (R10, R38, R40) and the bound on the FIFOs
(R35). -/

namespace Sys2Proof.Machine

/-! ## Pushes and pops (Table 20-1) -/

/-- A push does to the controller and the flags what one TXD write does. -/
theorem exec_pushes_fifo {i : Instr} {s t : State} (hi : Instr.pushes i = true) (h : exec i s = .next t) :
    ∃ e, t.ctl = (txAppend e s).ctl ∧ t.flags = (txAppend e s).flags := by
  obtain ⟨w, v, ha⟩ := exec_eq_pushEntry hi h
  obtain ⟨q, rfl⟩ := State.advance_eq_next ha
  exact ⟨⟨w, truncateTo w v⟩, rfl, rfl⟩

/-- A pop does to the controller and the flags what one RXD read does. -/
theorem exec_pop_fifo {dst : PopDest} {s t : State} (h : exec (.pop dst) s = .next t) :
    t.ctl = (rxTake s).ctl ∧ t.flags = (rxTake s).flags := by
  obtain ⟨u, hu, ha⟩ := execPop_eq_next h
  obtain ⟨q, rfl⟩ := State.advance_eq_next ha
  obtain ⟨-, rfl⟩ | ⟨-, rfl⟩ | ⟨i, -, -, rfl⟩ := storePopped_eq_next hu <;> exact ⟨rfl, rfl⟩

/-! ## The command's registers (R112, R114) -/

/-- What acceptance looks at stays: `ptr`, `count`, `manual_mode`, and of `shadow` its MSTREN. -/
structure Seq.KeepsCommand (a b : Seq) : Prop where
  ptr : b.ptr = a.ptr
  count : b.count = a.count
  manual : b.manual = a.manual
  mstren : b.shadow.map CtlConfig.mstren = a.shadow.map CtlConfig.mstren

theorem Seq.Keeps.keepsCommand {a b : Seq} (h : a.Keeps b) : a.KeepsCommand b :=
  ⟨h.ptr, h.count, h.manual, by rw [h.shadow]⟩

theorem Seq.keepsCommand_pumpSetup (q : Seq) : q.KeepsCommand q.pumpSetup := by
  unfold Seq.pumpSetup
  split <;> exact ⟨rfl, rfl, rfl, rfl⟩

theorem Seq.keepsCommand_refill (q : Seq) (txnf : Bool) : q.KeepsCommand (q.refill txnf) := by
  cases txnf <;> exact ⟨rfl, rfl, rfl, rfl⟩

theorem Seq.keepsCommand_drain (q : Seq) (rxne : Bool) : q.KeepsCommand (q.drain rxne) := by
  cases rxne <;> exact ⟨rfl, rfl, rfl, rfl⟩

/-- An instruction of SEQ's own leaves them alone; CS_ON and CS_OFF change `shadow`'s level only. -/
theorem exec_keepsCommand {i : Instr} {s t : State} (hi : Instr.isCommand i = false)
    (h : exec i s = .next t) : s.seq.KeepsCommand t.seq := by
  have chipSelect {l : CsLevel} (h : setChipSelect l s = .next t) :
      t.seq.shadow.map CtlConfig.mstren = s.seq.shadow.map CtlConfig.mstren := by
    obtain ⟨c, hc, ha⟩ := setChipSelect_eq_next h
    obtain ⟨q, rfl, hk⟩ := State.advance_keeps ha
    rw [hc, State.setSeq_seq, hk.shadow]
    rfl
  obtain ⟨-, f⟩ := exec_frame h
  obtain ⟨-, -, -, -, hptr, hcount, -⟩ := f.command hi
  refine ⟨hptr, hcount, f.manual, ?_⟩
  by_cases hon : i = .csOn
  · subst hon
    exact chipSelect h
  by_cases hoff : i = .csOff
  · subst hoff
    exact chipSelect h
  · rw [f.shadow hon hoff]

/-! ## INIT's rows (Table 40-2) -/

/-- INIT's rows, IN11 among them. -/
def Label.ofInit : List Label := Label.initRows ++ [.in11]

/-- What a row of INIT does: IN3 is the reset pulse, and no other row touches the FIFOs (Table 40-2). -/
structure InitTurn (s t : State) : Prop where
  flags : t.flags = s.flags
  wire : s.wire <+: t.wire
  regTrace : ∃ a, t.regTrace = s.regTrace ++ [a]
  unlocked : s.seq.ust = .in2 → t.plat.locked = false
  queues : s.seq.ust ≠ .in3 → t.ctl.txq = s.ctl.txq ∧ t.ctl.rxq = s.ctl.rxq
  running : s.seq.ust ≠ .in3 → (s.ctl.running = false → t.ctl.running = false) ∧
    (s.par.emptyPolicy = .stop → t.ctl.running = s.ctl.running)
  pulse : s.seq.ust = .in3 → s.plat.locked = false →
    t.ctl.txq = [] ∧ t.ctl.rxq = [] ∧ t.ctl.running = false
  locked : s.seq.ust = .in3 → s.plat.locked = true → t.ctl = s.ctl
  command : s.seq.ust ≠ .in10 → s.seq.KeepsCommand t.seq

/-- A row of INIT other than IN2, IN3 and IN10 leaves FIFOs, `running`, flags and WIRE alone. -/
theorem InitTurn.of_quiet {s t : State} {l : Label} (hu : s.seq.ust = l) (htx : t.ctl.txq = s.ctl.txq)
    (hrx : t.ctl.rxq = s.ctl.rxq) (hrun : t.ctl.running = s.ctl.running) (hflags : t.flags = s.flags)
    (hwire : t.wire = s.wire) (htrace : ∃ a, t.regTrace = s.regTrace ++ [a])
    (hcmd : s.seq.KeepsCommand t.seq) (hl : l ≠ .in2 ∧ l ≠ .in3 := by decide) : InitTurn s t where
  flags := hflags
  wire := hwire ▸ List.prefix_rfl
  regTrace := htrace
  unlocked h := absurd (hu.symm.trans h) hl.1
  queues _ := ⟨htx, hrx⟩
  running _ := ⟨hrun.trans, fun _ => hrun⟩
  pulse h := absurd (hu.symm.trans h) hl.2
  locked h := absurd (hu.symm.trans h) hl.2
  command _ := hcmd

/-- IN6 and IN7 answer a next state only if the threshold is legal (R32). -/
theorem seqTurn_in6_eq_next {s t : State} (hu : s.seq.ust = .in6) (h : seqTurn s = .next t) :
    t = ((s.setCtl { s.ctl with rxThres := 1 }).record (.wRxThres 1)).goto .in7 := by
  have hl : Result.andThen (ctlWriteRxThres 1 s) State.advance = .next t := by
    rw [seqTurn_of_no_microInstr (microInstr_of_initRow (by rw [hu]; decide))] at h
    simp only [localStep, hu] at h
    exact h
  obtain ⟨u, hw, -⟩ := Result.andThen_eq_next hl
  obtain ⟨⟨-, hd⟩, -⟩ := ctlWriteRxThres_eq_next hw
  exact Host.Outcome.next.inj (h.symm.trans (seqTurn_in6 hu hd))

theorem seqTurn_in7_eq_next {s t : State} (hu : s.seq.ust = .in7) (h : seqTurn s = .next t) :
    t = ((s.setCtl { s.ctl with txThres := 1 }).record (.wTxThres 1)).goto .in8 := by
  have hl : Result.andThen (ctlWriteTxThres 1 s) State.advance = .next t := by
    rw [seqTurn_of_no_microInstr (microInstr_of_initRow (by rw [hu]; decide))] at h
    simp only [localStep, hu] at h
    exact h
  obtain ⟨u, hw, -⟩ := Result.andThen_eq_next hl
  obtain ⟨⟨-, hd⟩, -⟩ := ctlWriteTxThres_eq_next hw
  exact Host.Outcome.next.inj (h.symm.trans (seqTurn_in7 hu hd))

theorem seqTurn_initTurn {s t : State} (hr : s.seq.ust ∈ Label.ofInit) (h : seqTurn s = .next t) :
    InitTurn s t := by
  cases hu : s.seq.ust with
  | in1 =>
    cases (seqTurn_in1 hu).symm.trans h
    exact .of_quiet hu rfl rfl rfl rfl rfl ⟨_, rfl⟩ ⟨rfl, rfl, rfl, rfl⟩
  | in2 =>
    cases (seqTurn_in2 hu).symm.trans h
    exact ⟨rfl, List.prefix_rfl, ⟨_, rfl⟩, fun _ => rfl, fun _ => ⟨rfl, rfl⟩, fun _ => ⟨id, fun _ => rfl⟩,
      by simp [hu], by simp [hu], fun _ => ⟨rfl, rfl, rfl, rfl⟩⟩
  | in3 =>
    cases (seqTurn_in3 hu).symm.trans h
    cases hl : s.plat.locked with
    | false =>
      rw [platSetReset_of_unlocked hl]
      exact ⟨rfl, List.prefix_append _ _, ⟨_, rfl⟩, by simp [hu], absurd hu, absurd hu,
        fun _ _ => ⟨rfl, rfl, rfl⟩, by simp [hl], fun _ => ⟨rfl, rfl, rfl, rfl⟩⟩
    | true =>
      rw [platSetReset_of_locked hl]
      exact ⟨rfl, List.prefix_rfl, ⟨_, rfl⟩, by simp [hu], absurd hu, absurd hu, by simp [hl], fun _ _ => rfl,
        fun _ => ⟨rfl, rfl, rfl, rfl⟩⟩
  | in4 =>
    cases (seqTurn_in4 hu).symm.trans h
    cases hl : s.plat.locked with
    | false =>
      rw [platClearReset_of_unlocked hl]
      exact .of_quiet hu rfl rfl rfl rfl rfl ⟨_, rfl⟩ ⟨rfl, rfl, rfl, rfl⟩
    | true =>
      rw [platClearReset_of_locked hl]
      exact .of_quiet hu rfl rfl rfl rfl rfl ⟨_, rfl⟩ ⟨rfl, rfl, rfl, rfl⟩
  | in5 =>
    cases (seqTurn_in5 hu).symm.trans h
    exact .of_quiet hu rfl rfl rfl rfl rfl ⟨_, rfl⟩ ⟨rfl, rfl, rfl, rfl⟩
  | in6 =>
    cases seqTurn_in6_eq_next hu h
    exact .of_quiet hu rfl rfl rfl rfl rfl ⟨_, rfl⟩ ⟨rfl, rfl, rfl, rfl⟩
  | in7 =>
    cases seqTurn_in7_eq_next hu h
    exact .of_quiet hu rfl rfl rfl rfl rfl ⟨_, rfl⟩ ⟨rfl, rfl, rfl, rfl⟩
  | in8 =>
    cases (seqTurn_in8 hu).symm.trans h
    exact .of_quiet hu rfl rfl rfl rfl rfl ⟨_, rfl⟩ ⟨rfl, rfl, rfl, rfl⟩
  | in9 =>
    cases (seqTurn_in9 hu).symm.trans h
    exact .of_quiet hu rfl rfl rfl rfl rfl ⟨_, rfl⟩ ⟨rfl, rfl, rfl, rfl⟩
  | in10 =>
    cases (seqTurn_in10 hu).symm.trans h
    rw [initWriteConfig_eq]
    exact ⟨rfl, List.prefix_append _ _, ⟨_, rfl⟩, by simp [hu], fun _ => ⟨rfl, rfl⟩,
      fun _ => ⟨by simp +contextual [State.goto], by simp +contextual [State.goto]⟩,
      by simp [hu], by simp [hu], absurd hu⟩
  | in11 =>
    cases (seqTurn_in11 hu).symm.trans h
    exact .of_quiet hu rfl rfl rfl rfl rfl ⟨_, rfl⟩ ⟨rfl, rfl, rfl, rfl⟩
  | _ => simp [hu, Label.ofInit, Label.initRows] at hr

/-! ## The other rows that are no instruction -/

/-- SEQ's working registers change, and STATUS may be read; nothing else changes. -/
structure RegistersOnly (s t : State) : Prop where
  ctl : t.ctl = s.ctl
  plat : t.plat = s.plat
  flags : t.flags = s.flags
  wire : t.wire = s.wire
  regTrace : ∃ l : List Access, l.length ≤ 1 ∧ t.regTrace = s.regTrace ++ l
  command : s.seq.KeepsCommand t.seq

theorem RegistersOnly.setSeq {s : State} {q : Seq} (h : s.seq.KeepsCommand q) :
    RegistersOnly s (s.setSeq q) :=
  ⟨rfl, rfl, rfl, rfl, ⟨[], Nat.zero_le 1, (List.append_nil _).symm⟩, h⟩

theorem RegistersOnly.readStatus {s : State} {q : Seq} (h : s.seq.KeepsCommand q) :
    RegistersOnly s ((ctlReadStatus s).setSeq q) :=
  ⟨rfl, rfl, rfl, rfl, ⟨[_], Nat.le_refl 1, rfl⟩, h⟩

theorem localStep_registersOnly {s t : State} (hr : s.seq.ust ∉ Label.ofInit)
    (h : localStep s = .next t) : RegistersOnly s t := by
  cases hu : s.seq.ust <;> simp only [localStep, hu] at h
  case in1 | in2 | in3 | in4 | in5 | in6 | in7 | in8 | in9 | in10 | in11 =>
    exact absurd (by rw [hu]; decide) hr
  case we2 | rs2 | id2 =>
    obtain ⟨q, hq, rfl⟩ := State.doReturn_eq_next h
    obtain ⟨hptr, hcount, hmanual, hmstren⟩ := (Seq.keeps_returnVia hq).keepsCommand
    exact .setSeq ⟨hptr, hcount, hmanual, hmstren⟩
  case dr1 =>
    split at h
    · cases h
      exact .readStatus ⟨rfl, rfl, rfl, rfl⟩
    · obtain ⟨q, hq, rfl⟩ := State.doReturn_eq_next h
      exact .readStatus (Seq.keeps_returnVia hq).keepsCommand
  case ww2 =>
    split at h
    · obtain ⟨q, hq, rfl⟩ := State.doReturn_eq_next h
      exact .setSeq (Seq.keeps_returnVia hq).keepsCommand
    · cases h
      exact .setSeq ⟨rfl, rfl, rfl, rfl⟩
  case t1 =>
    unfold callForOp at h
    split at h <;> cases h <;> exact .setSeq ⟨rfl, rfl, rfl, rfl⟩
  case rd0 => split at h <;> cases h <;> exact .setSeq ⟨rfl, rfl, rfl, rfl⟩
  case rd11 =>
    cases h
    exact .setSeq s.seq.keepsCommand_pumpSetup
  case l2 =>
    cases h
    exact .readStatus (s.seq.keepsCommand_refill _)
  case l4 =>
    cases h
    exact .readStatus (s.seq.keepsCommand_drain _)
  case idle =>
    cases h
    exact .setSeq (q := s.seq) ⟨rfl, rfl, rfl, rfl⟩
  all_goals
    cases h
    exact .setSeq ⟨rfl, rfl, rfl, rfl⟩

/-- SEQ's turn is an instruction, a row of INIT, or a row that changes registers only. -/
theorem seqTurn_cases {s t : State} (h : seqTurn s = .next t) :
    (∃ i, microInstr s = some i ∧ exec i s = .next t) ∨ (s.seq.ust ∈ Label.ofInit ∧ InitTurn s t) ∨
      (s.seq.ust ∉ Label.ofInit ∧ RegistersOnly s t) := by
  by_cases hr : s.seq.ust ∈ Label.ofInit
  · exact .inr (.inl ⟨hr, seqTurn_initTurn hr h⟩)
  cases hi : microInstr s with
  | some i => exact .inl ⟨i, rfl, (seqTurn_of_microInstr hi).symm.trans h⟩
  | none => exact .inr (.inr ⟨hr, localStep_registersOnly hr ((seqTurn_of_no_microInstr hi).symm.trans h)⟩)

/-- But for IN10, which sets `shadow` and `manual_mode`, SEQ's turn leaves the command's registers alone. -/
theorem seqTurn_keepsCommand {s t : State} (h : seqTurn s = .next t) (h10 : s.seq.ust ≠ .in10) :
    s.seq.KeepsCommand t.seq := by
  obtain ⟨i, hi, hx⟩ | ⟨-, hx⟩ | ⟨-, hx⟩ := seqTurn_cases h
  · exact exec_keepsCommand (not_isCommand_of_microInstr hi) hx
  · exact hx.command h10
  · exact hx.command

/-! ## Flags and traces (R10, R38, R40) -/

theorem FaultFlags.Grows.refl (f : FaultFlags) : f.Grows f := ⟨id, id, id⟩

/-- The flags of `s` stay in `t`, and its traces begin `t`'s. -/
structure Extends (s t : State) : Prop where
  flags : s.flags.Grows t.flags
  wire : s.wire <+: t.wire
  regTrace : ∃ l : List Access, l.length ≤ 1 ∧ t.regTrace = s.regTrace ++ l

theorem txAppend_grows (e : TxEntry) (s : State) : s.flags.Grows (txAppend e s).flags := by
  unfold txAppend
  split
  · exact .refl _
  · exact ⟨fun _ => rfl, id, id⟩

theorem rxTake_grows (s : State) : s.flags.Grows (rxTake s).flags := by
  unfold rxTake
  split
  · exact ⟨id, fun _ => rfl, id⟩
  · exact .refl _

/-- A push may set `tx_overflow`, a pop `rx_underflow`, and no other instruction a flag (Table 20-1). -/
theorem exec_flags_grow {i : Instr} {s t : State} (h : exec i s = .next t) : s.flags.Grows t.flags := by
  by_cases hp : Instr.pushes i = true
  · obtain ⟨e, -, hf⟩ := exec_pushes_fifo hp h
    exact hf ▸ txAppend_grows e s
  by_cases hd : ∃ dst, i = .pop dst
  · obtain ⟨dst, rfl⟩ := hd
    obtain ⟨-, hf⟩ := exec_pop_fifo h
    exact hf ▸ rxTake_grows s
  · obtain ⟨m, -⟩ := exec_frame h
    obtain ⟨-, htx⟩ := m.txq (Bool.eq_false_of_not_eq_true hp)
    obtain ⟨-, hrx⟩ := m.rxq fun dst hi => hd ⟨dst, hi⟩
    exact ⟨by rw [htx]; exact id, by rw [hrx]; exact id, by rw [m.rxOverrun]; exact id⟩

/-- WIRE gains the edge of a CONFIG write or a wire opcode's exchange (R40). -/
theorem exec_wire_prefix {i : Instr} {s t : State} (h : exec i s = .next t) : s.wire <+: t.wire := by
  have config {u : State} {c : CtlConfig} {b : Bool} (ha : (ctlWriteConfig c b u).advance = .next t)
      (hu : u.wire = s.wire) : s.wire <+: t.wire := by
    obtain ⟨q, rfl⟩ := State.advance_eq_next ha
    exact hu ▸ List.prefix_append _ _
  by_cases ho : Instr.isOpcode i = true
  · obtain ⟨b, rfl⟩ := exec_eq_exchange ho h
    exact List.prefix_append _ _
  obtain ⟨m, -⟩ := exec_frame h
  by_cases hon : i = .csOn
  · subst hon
    obtain ⟨c, -, ha⟩ := setChipSelect_eq_next h
    exact config ha rfl
  by_cases hoff : i = .csOff
  · subst hoff
    obtain ⟨c, -, ha⟩ := setChipSelect_eq_next h
    exact config ha rfl
  by_cases hstart : i = .start
  · subst hstart
    obtain ⟨c, -, -, ha⟩ := execStart_eq_next h
    exact config ha rfl
  · rw [m.wire (Bool.eq_false_of_not_eq_true ho) hon hoff hstart]

theorem seqTurn_extends {s t : State} (h : seqTurn s = .next t) : Extends s t := by
  obtain ⟨i, -, hx⟩ | ⟨-, hx⟩ | ⟨-, hx⟩ := seqTurn_cases h
  · obtain ⟨m, -⟩ := exec_frame hx
    exact ⟨exec_flags_grow hx, exec_wire_prefix hx, m.regTrace⟩
  · obtain ⟨a, ha⟩ := hx.regTrace
    exact ⟨hx.flags ▸ .refl _, hx.wire, [a], Nat.le_refl 1, ha⟩
  · exact ⟨hx.flags ▸ .refl _, hx.wire ▸ List.prefix_rfl, hx.regTrace⟩

/-- The bytes of an entry are appended to WIRE (R280). -/
theorem exchangeAll_wire_prefix (bs : List Byte) (s : State) : s.wire <+: (exchangeAll bs s).1.wire := by
  obtain ⟨devs, -, -, hafter⟩ := exchangeAll_answers bs s
  rw [hafter]
  exact List.prefix_append _ _

theorem engStep_extends {s t : State} (h : engStep s = .next t) : Extends s t := by
  obtain rfl | ⟨e, q, -, -, -, rfl⟩ := engStep_eq_next h
  · exact ⟨.refl _, List.prefix_rfl, [], Nat.zero_le 1, (List.append_nil _).symm⟩
  have hwire := exchangeAll_wire_prefix (sentBytes e.width e.value) s
  obtain ⟨w, d, hx⟩ := exchangeAll_eq (sentBytes e.width e.value) s
  rw [shiftEntry, deliver_eq]
  refine ⟨?_, hwire, [], Nat.zero_le 1, by rw [hx, List.append_nil]; rfl⟩
  rw [hx]
  dsimp only [State.setCtl_flags]
  split
  · exact .refl _
  · exact ⟨id, id, fun _ => rfl⟩

/-- Settles O49, agent by agent: SEQ's turn and ENG's only set flags and append, and HOST does neither. -/
theorem flagsAndTracesOnlyGrow : Obligations.FlagsAndTracesOnlyGrow := by
  intro s t h
  obtain h | h | h := step_turn h
  · obtain ⟨hflags, hwire, htrace⟩ := seqTurn_extends h
    exact ⟨hflags, hwire, htrace⟩
  · obtain ⟨hflags, hwire, htrace⟩ := engStep_extends h
    exact ⟨hflags, hwire, htrace⟩
  · have same : s.flags.Grows s.flags ∧ s.wire <+: s.wire ∧
        ∃ l : List Access, l.length ≤ 1 ∧ s.regTrace = s.regTrace ++ l :=
      ⟨.refl _, List.prefix_rfl, [], Nat.zero_le 1, (List.append_nil _).symm⟩
    obtain ⟨m, x, rfl⟩ | ⟨op, d, x, -, rfl⟩ := hostTurn_cases h <;> exact same

/-! ## The bound on the FIFOs (R35) -/

section
variable {s : State}

theorem txAppend_fifosBounded (h : s.FifosBounded) (e : TxEntry) : (txAppend e s).FifosBounded := by
  obtain ⟨htx, hrx⟩ := h
  by_cases hroom : s.ctl.txq.length < s.par.txDepth
  · rw [txAppend_of_room e hroom]
    exact ⟨by simpa using hroom, hrx⟩
  · rw [txAppend_of_full e hroom]
    exact ⟨htx, hrx⟩

theorem rxTake_fifosBounded (h : s.FifosBounded) : (rxTake s).FifosBounded := by
  obtain ⟨htx, hrx⟩ := h
  cases hq : s.ctl.rxq with
  | nil =>
    rw [rxTake_of_nil hq]
    exact ⟨htx, hrx⟩
  | cons w q =>
    rw [rxTake_of_cons hq]
    rw [hq] at hrx
    exact ⟨htx, Nat.le_of_succ_le hrx⟩

theorem State.FifosBounded.congr {u t : State} (h : u.FifosBounded) (htx : t.ctl.txq = u.ctl.txq)
    (hrx : t.ctl.rxq = u.ctl.rxq) (hpar : t.par = u.par) : t.FifosBounded := by
  rwa [State.FifosBounded, htx, hrx, hpar]

theorem exec_fifosBounded {i : Instr} {t : State} (h : s.FifosBounded) (hx : exec i s = .next t) :
    t.FifosBounded := by
  obtain ⟨m, -⟩ := exec_frame hx
  by_cases hp : Instr.pushes i = true
  · obtain ⟨e, hctl, -⟩ := exec_pushes_fifo hp hx
    exact (txAppend_fifosBounded h e).congr (by rw [hctl]) (by rw [hctl]) (by rw [m.par, txAppend_par])
  by_cases hd : ∃ dst, i = .pop dst
  · obtain ⟨dst, rfl⟩ := hd
    obtain ⟨hctl, -⟩ := exec_pop_fifo hx
    exact (rxTake_fifosBounded h).congr (by rw [hctl]) (by rw [hctl]) (by rw [m.par, rxTake_par])
  · obtain ⟨htx, -⟩ := m.txq (Bool.eq_false_of_not_eq_true hp)
    obtain ⟨hrx, -⟩ := m.rxq fun dst hi => hd ⟨dst, hi⟩
    exact h.congr htx hrx m.par

theorem initTurn_fifosBounded {t : State} (h : s.FifosBounded) (hpar : t.par = s.par)
    (hx : InitTurn s t) : t.FifosBounded := by
  by_cases h3 : s.seq.ust = .in3
  · cases hl : s.plat.locked with
    | false =>
      obtain ⟨htx, hrx, -⟩ := hx.pulse h3 hl
      simp [State.FifosBounded, htx, hrx]
    | true =>
      have hctl := hx.locked h3 hl
      exact h.congr (by rw [hctl]) (by rw [hctl]) hpar
  · obtain ⟨htx, hrx⟩ := hx.queues h3
    exact h.congr htx hrx hpar

theorem shifted_fifosBounded {t : State} (h : s.FifosBounded) (hx : Shifted s t) : t.FifosBounded := by
  obtain ⟨htx, hrx⟩ := h
  have hlen := hx.txq
  rw [State.FifosBounded, hx.par]
  refine ⟨by omega, ?_⟩
  obtain hroom | hfull := Nat.lt_or_ge s.ctl.rxq.length s.par.rxDepth
  · rw [hx.delivered hroom]
    exact hroom
  · rw [hx.overrun hfull]
    exact hrx

end

/-- Settles O51: a push needs room, ENG's delivery too, and everything else takes entries or none. -/
theorem stepKeepsFifosBounded : Obligations.StepKeepsFifosBounded := by
  intro s t hs h
  obtain h | h | h := step_turn h
  · have hpar := (seqTurn_setupFrame h).par
    obtain ⟨i, -, hx⟩ | ⟨-, hx⟩ | ⟨-, hx⟩ := seqTurn_cases h
    · exact exec_fifosBounded (s := s.tick) hs hx
    · exact initTurn_fifosBounded (s := s.tick) hs hpar hx
    · exact State.FifosBounded.congr (u := s) hs (congrArg Ctl.txq hx.ctl) (congrArg Ctl.rxq hx.ctl) hpar
  · obtain rfl | hx := engStep_shifted h
    · exact hs
    · exact shifted_fifosBounded (s := s.tick) hs hx
  · obtain ⟨m, x, rfl⟩ | ⟨op, d, x, -, rfl⟩ := hostTurn_cases h <;> exact hs

end Sys2Proof.Machine

/-! SUPPORT. CONFIG and `shadow` outside INIT's reset (R41). -/

namespace Sys2Proof.Machine

/-- A row that neither calls nor returns goes on within its table. -/
theorem Seq.Flow.mem_goes {a b : Seq} (h : a.Flow b) (hc : a.ust.calls = []) (hr : a.ust ∉ Label.returns) :
    b.ust ∈ a.ust.goes ∧ b.stk = a.stk := by
  obtain ⟨hl, hk⟩ | ⟨hl, -⟩ | ⟨-, hl, -⟩ := h
  · exact ⟨hl, hk⟩
  · rw [hc] at hl
    cases hl
  · exact absurd hl hr

/-- CS_ON, CS_OFF and START leave in CONFIG what `shadow` holds (R170, R171, R172). -/
theorem exec_shadow_eq_config {i : Instr} {s t : State} (hi : i = .csOn ∨ i = .csOff ∨ i = .start)
    (h : exec i s = .next t) : t.seq.shadow = some t.ctl.config := by
  have written {u : State} {c : CtlConfig} {b : Bool} (ha : (ctlWriteConfig c b u).advance = .next t)
      (hu : u.seq.shadow = some c) : t.seq.shadow = some t.ctl.config := by
    obtain ⟨q, rfl, hk⟩ := State.advance_keeps ha
    exact hk.shadow.trans hu
  obtain rfl | rfl | rfl := hi
  · obtain ⟨c, -, ha⟩ := setChipSelect_eq_next h
    exact written ha rfl
  · obtain ⟨c, -, ha⟩ := setChipSelect_eq_next h
    exact written ha rfl
  · obtain ⟨c, hc, -, ha⟩ := execStart_eq_next h
    exact written ha hc

/-- INIT's reset is left through IN10 only (Table 40-2). -/
theorem Label.insideReset_goes (l : Label) (hl : l.insideReset = true) (h10 : l ≠ .in10) :
    l.calls = [] ∧ l ∉ Label.returns ∧ ∀ m ∈ l.goes, m.insideReset = true := by
  cases l with
  | in4 | in5 | in6 | in7 | in8 | in9 => decide
  | in10 => exact absurd rfl h10
  | _ => cases hl

theorem State.ShadowInvariant.congr {s t : State} (hs : s.ShadowInvariant)
    (hu : t.seq.ust.insideReset = false → s.seq.ust.insideReset = false)
    (hc : t.ctl.config = s.ctl.config) (hsh : t.seq.shadow = s.seq.shadow) : t.ShadowInvariant := by
  intro ht c hc'
  rw [hc]
  exact hs (hu ht) c (hsh.symm.trans hc')

theorem State.ShadowInvariant.of_eq {t : State} (h : t.seq.shadow = some t.ctl.config) :
    t.ShadowInvariant := fun _ _ hc => Option.some.inj (h.symm.trans hc)

/-- SEQ writes CONFIG at IN3, which enters the reset, and else together with `shadow` (R157). -/
theorem seqTurn_shadowInvariant {s t : State} (hs : s.ShadowInvariant) (h : seqTurn s = .next t) :
    t.ShadowInvariant := by
  by_cases h3 : s.seq.ust = .in3
  · cases (seqTurn_in3 h3).symm.trans h
    exact fun ht => absurd (show Label.in4.insideReset = false from ht) (by decide)
  by_cases h10 : s.seq.ust = .in10
  · cases (seqTurn_in10 h10).symm.trans h
    exact .of_eq rfl
  by_cases hi : microInstr s ∈ [some Instr.csOn, some .csOff, some .start]
  · have written {i : Instr} (hm : microInstr s = some i) (hi : i = .csOn ∨ i = .csOff ∨ i = .start) :
        t.ShadowInvariant := .of_eq (exec_shadow_eq_config hi ((seqTurn_of_microInstr hm).symm.trans h))
    simp only [List.mem_cons, List.not_mem_nil, or_false] at hi
    obtain hm | hm | hm := hi
    · exact written hm (.inl rfl)
    · exact written hm (.inr (.inl rfl))
    · exact written hm (.inr (.inr rfl))
  · obtain ⟨hc, hsh⟩ := (seqTurn_setupFrame h).config ⟨h3, h10, hi⟩
    refine hs.congr (fun ht => Bool.eq_false_of_not_eq_true fun hin => ?_) hc hsh
    obtain ⟨hcalls, hreturns, hgoes⟩ := s.seq.ust.insideReset_goes hin h10
    obtain ⟨hl, -⟩ := (seqTurn_flow h).mem_goes hcalls hreturns
    exact Bool.false_ne_true (ht.symm.trans (hgoes _ hl))

/-- Settles O52, agent by agent: ENG and HOST write neither, and HOST moves from IDLE only. -/
theorem stepKeepsShadowInvariant : Obligations.StepKeepsShadowInvariant := by
  intro s t hs h
  obtain h | h | h := step_turn h
  · exact seqTurn_shadowInvariant (s := s.tick) hs h
  · obtain rfl | hx := engStep_shifted h
    · exact hs
    · exact State.ShadowInvariant.congr (s := s) hs (by rw [hx.seq]; exact id) hx.config (by rw [hx.seq]; rfl)
  · obtain ⟨m, x, rfl⟩ | ⟨op, d, x, ha, rfl⟩ := hostTurn_cases h
    · exact hs
    · have hidle : s.seq.ust = .idle := ha.idle
      exact State.ShadowInvariant.congr (s := s) hs (fun _ => by rw [hidle]; rfl) rfl rfl

end Sys2Proof.Machine

/-! SUPPORT. What acceptance has checked of a command (R22, R113), along SEQ's rows. -/

namespace Sys2Proof.Machine

/-! ## Where a return ends (R180) -/

/-- With the stack the chain of calls of row `l`, a return pops one of `l`'s records and resumes at its
label; or, WAIT_WIP being called from PP15, that record and PROGRAM_PAGE's, and resumes at WT3. -/
theorem Seq.returnVia_cases {rs : List Record} {q q' : Seq} {l : Label}
    (hs : stackFits rs l = true) (h : Seq.returnVia rs q = some q') :
    (∃ m v rest, rs = ⟨.label m, v⟩ :: rest ∧ .label m ∈ l.callers ∧
        q' = ({ q.restore v with stk := rest }.resumeAt m)) ∨
      ∃ v v' rest, rs = ⟨.ret, v⟩ :: ⟨.label .wt3, v'⟩ :: rest ∧ .ret ∈ l.callers ∧
        q' = { (q.restore v).restore v' with stk := rest, ust := .wt3 } := by
  match rs with
  | [] => cases h
  | ⟨.label m, v⟩ :: rest =>
    simp only [stackFits, Bool.and_eq_true, List.contains_iff_mem] at hs
    exact .inl ⟨m, v, rest, rfl, hs.1, (Option.some.inj h).symm⟩
  | [⟨.ret, v⟩] => cases h
  | ⟨.ret, v⟩ :: ⟨r, v'⟩ :: rest =>
    simp only [stackFits, Bool.and_eq_true, List.contains_iff_mem, Resume.site, Label.callers,
      List.mem_singleton] at hs
    obtain ⟨hret, rfl, -⟩ := hs
    exact .inr ⟨v, v', rest, rfl, hret, (Option.some.inj h).symm⟩

/-- The row that a return to the place ends at: PP15's call is followed by PROGRAM_PAGE's own return. -/
def Resume.target : Resume → Label
  | .label l => l
  | .ret => .wt3

/-- A return ends at the place of a record of the stack, the stack below it left. -/
theorem Seq.returnVia_target {rs : List Record} {q q' : Seq} {l : Label}
    (hs : stackFits rs l = true) (h : Seq.returnVia rs q = some q') :
    (∃ r ∈ l.callers, q'.ust = r.target) ∧ (∃ r ∈ rs, r.resume = .label q'.ust) ∧ q'.stk ⊆ rs := by
  obtain ⟨m, v, rest, rfl, hm, rfl⟩ | ⟨v, v', rest, rfl, hret, rfl⟩ := Seq.returnVia_cases hs h
  · exact ⟨⟨_, hm, Seq.resumeAt_ust _ _⟩, ⟨_, List.mem_cons_self, by rw [Seq.resumeAt_ust]⟩,
      by rw [Seq.resumeAt_stk]; exact List.subset_cons_self _ _⟩
  · exact ⟨⟨_, hret, rfl⟩, ⟨_, List.mem_cons_of_mem _ List.mem_cons_self, rfl⟩,
      List.subset_cons_of_subset _ (List.subset_cons_self _ _)⟩

/-! ## Rows and what they need checked -/

/-- Only acceptance leads to RD0 and WT1, and out of the rows that need no initialised controller. -/
theorem Label.checked_of_goes (l : Label) : ∀ m ∈ l.goes,
    (m.uninitialised = false → l.uninitialised = false) ∧ m ≠ .rd0 ∧ m ≠ .wt1 ∧
      (m = .wt2 → l = .wt1 ∨ l = .wt3) ∧
      (m.usesBuffer = true → l.usesBuffer = true ∨ l = .rd0 ∧ m ≠ .done) := by
  cases l <;> decide

theorem Label.checked_of_calls (l : Label) : ∀ m ∈ l.calls,
    l.uninitialised = false ∧ m ≠ .rd0 ∧ m ≠ .wt1 ∧ m ≠ .wt2 ∧ m.usesBuffer = false ∧
      (l.resume = .label .wt3 → l = .wt2) := by
  cases l <;> decide

theorem Label.checked_of_returns : ∀ l ∈ Label.returns, l.uninitialised = false ∧ ∀ r ∈ l.callers,
    r.target ≠ .rd0 ∧ r.target ≠ .wt1 ∧ r.target ≠ .wt2 ∧
      (r.target.usesBuffer = true → r.target = .wt3) := by
  decide

theorem firstStep_checked {op : BitVec 4} (h : op.toNat ≤ 8) :
    (op = 0 → (firstStep op).uninitialised = true) ∧
      (firstStep op = .rd0 ∨ firstStep op = .wt1 → op = 1 ∨ op = 2) ∧
      firstStep op ≠ .wt2 ∧ (firstStep op).usesBuffer = false := by
  decide +revert

/-- INIT's computed configuration has MSTREN = 1 in manual mode (R151, R152). -/
theorem merge_cfgval_mstren (old : CtlConfig) (p : Params) : (merge old (cfgval p true)).mstren = true := by
  simp [merge, cfgval]

/-- WT1 counts no chunks for no words (R120). -/
theorem count_ne_zero_of_chunksOf {c : Word} (h : chunksOf c ≠ 0) : c ≠ 0 := by
  rintro rfl
  exact h (by decide)

/-! ## SEQ's turn -/

section
variable {s t : State}

/-- A READ that leaves RD0 for its rows has words to read (R251). -/
theorem count_ne_zero_of_rd0 (h : seqTurn s = .next t) (hu : s.seq.ust = .rd0) (ht : t.seq.ust ≠ .done) :
    s.seq.count ≠ 0 := by
  intro hc
  obtain ⟨-, -, zero, -⟩ := commandsCompleteWithTheirResult s
  cases (zero (by simp [hu, hc])).symm.trans h
  exact ht rfl

/-- A WRITE that calls for a page has chunks (R220). -/
theorem chunks_ne_zero_of_wt2 (h : seqTurn s = .next t) (hu : s.seq.ust = .wt2) (ht : t.seq.ust ≠ .done) :
    s.seq.chunks ≠ 0 := by
  intro hc
  obtain ⟨-, -, ends, -⟩ := writeCallsItsPages s
  cases (ends hu (by simp [hc])).symm.trans h
  exact ht rfl

/-- At IN10 `shadow` and `manual_mode` are set together. -/
theorem commandPlan_of_in10 (hp : s.CommandPlan) (h : seqTurn s = .next t) (hu : s.seq.ust = .in10) :
    t.CommandPlan := by
  obtain ⟨-, -, -, -, hbuffer⟩ := hp
  cases (seqTurn_in10 hu).symm.trans h
  refine ⟨fun c hc hm => ?_, fun hl => absurd (show Label.in11.uninitialised = false from hl) (by decide),
    fun hl => absurd (show Label.in11 = .rd0 ∨ Label.in11 = .wt1 from hl) (by decide),
    fun hl => absurd (show Label.in11 = .wt2 from hl) (by decide), fun hl => ?_⟩
  · cases hc
    rw [show s.seq.manualMode = true from hm]
    exact merge_cfgval_mstren _ _
  · obtain hl | hr := hl
    · exact absurd (show Label.in11.usesBuffer = true from hl) (by decide)
    · exact hbuffer (.inr hr)

theorem seqTurn_commandPlan (hs : s.StackInvariant) (hp : s.CommandPlan) (h : seqTurn s = .next t) :
    t.CommandPlan := by
  by_cases h10 : s.seq.ust = .in10
  · exact commandPlan_of_in10 hp h h10
  obtain ⟨hmstren, hinit, hfirst, hwt2, hbuffer⟩ := hp
  obtain ⟨hptr, hcount, hmanual, hshadow⟩ := seqTurn_keepsCommand h h10
  have initialised (hl : s.seq.ust.uninitialised = false) : t.seq.shadow ≠ none ∧ t.seq.manual = true := by
    obtain ⟨hsh, hm⟩ := hinit hl
    refine ⟨fun hn => ?_, hmanual.trans hm⟩
    rw [hn] at hshadow
    exact hsh (Option.map_eq_none_iff.mp hshadow.symm)
  have mstren : ∀ c, t.seq.shadow = some c → t.seq.manual = true → c.mstren = true := by
    intro c hc hm
    rw [hc] at hshadow
    obtain ⟨c', hc', heq⟩ := Option.map_eq_some_iff.mp hshadow.symm
    exact heq ▸ hmstren c' hc' (hmanual ▸ hm)
  refine ⟨mstren, ?_⟩
  rw [hptr, hcount]
  obtain ⟨hl, hk⟩ | ⟨hl, hk⟩ | ⟨q, hl, hq⟩ := seqTurn_flow h
  · obtain ⟨huninit, hrd0, hwt1, hto2, huses⟩ := s.seq.ust.checked_of_goes _ hl
    refine ⟨fun ht => initialised (huninit ht), fun ht => absurd ht (by simp [hrd0, hwt1]), fun ht hc => ?_,
      fun ht => ?_⟩
    · obtain hu | hu := hto2 ht
      · obtain ⟨count, -⟩ := writeCallsItsPages s
        cases (count hu).symm.trans h
        exact hfirst (.inr hu) (count_ne_zero_of_chunksOf hc)
      · exact hbuffer (.inl (by rw [hu]; rfl))
    · rw [hk] at ht
      obtain ht | ht := ht
      · obtain hu | ⟨hu, hdone⟩ := huses ht
        · exact hbuffer (.inl hu)
        · exact hfirst (.inl hu) (count_ne_zero_of_rd0 h hu hdone)
      · exact hbuffer (.inr ht)
  · obtain ⟨hinitd, hrd0, hwt1, hwt2', huses, hpage⟩ := s.seq.ust.checked_of_calls _ hl
    refine ⟨fun _ => initialised hinitd, fun ht => absurd ht (by simp [hrd0, hwt1]), fun ht => absurd ht hwt2',
      fun ht => ?_⟩
    obtain ht | ⟨r, hr, hwt3⟩ := ht
    · exact absurd ht (by simp [huses])
    rw [hk, List.mem_cons] at hr
    obtain rfl | hr := hr
    · have hu := hpage (s.seq.returnRecord_resume_eq.symm.trans hwt3)
      rw [hu] at hl
      refine hwt2 hu (chunks_ne_zero_of_wt2 h hu fun hdone => ?_)
      rw [hdone] at hl
      exact absurd hl (by decide)
    · exact hbuffer (.inr ⟨r, hr, hwt3⟩)
  · obtain ⟨hinitd, hplaces⟩ := Label.checked_of_returns _ hl
    obtain ⟨⟨r, hr, hu⟩, ⟨r', hr', hresume⟩, hsub⟩ :=
      Seq.returnVia_target hs.1 hq
    obtain ⟨hrd0, hwt1, hwt2', huses⟩ := hplaces r hr
    rw [← hu] at hrd0 hwt1 hwt2' huses
    refine ⟨fun _ => initialised hinitd, fun ht => absurd ht (by simp [hrd0, hwt1]), fun ht => absurd ht hwt2',
      fun ht => hbuffer (.inr ?_)⟩
    obtain ht | ⟨r, hr, hwt3⟩ := ht
    · exact ⟨r', hr', by rw [hresume, huses ht]⟩
    · exact ⟨r, hsub hr, hwt3⟩

end

/-! ## Acceptance and the other agents -/

theorem State.CommandPlan.congr {s t : State} (hp : s.CommandPlan) (h : t.seq = s.seq) : t.CommandPlan := by
  rwa [State.CommandPlan, h]

/-- Acceptance checks what the plan asks at a command's first row (R113). -/
theorem State.CommandPlan.accepted {s : State} {op : BitVec 4} {d : Desc} (hp : s.CommandPlan)
    (ha : s.Accepts op d) : (s.accepted op (firstStep op) d).CommandPlan := by
  obtain ⟨hmstren, -⟩ := hp
  obtain ⟨hinit, htransfer, hwt2, huses⟩ := firstStep_checked ha.op_le
  refine ⟨hmstren, fun hl => ha.initialised fun h0 => ?_, fun hu => ha.aligned (htransfer hu),
    fun hu => absurd hu hwt2, fun hu => ?_⟩
  · exact Bool.false_ne_true (hl.symm.trans (hinit h0))
  · obtain hu | ⟨r, hr, -⟩ := hu
    · exact absurd hu (by rw [State.accepted, huses]; decide)
    · cases hr

/-- Settles O58, agent by agent: SEQ's rows stay within what acceptance has checked. -/
theorem stepKeepsCommandPlan : Obligations.StepKeepsCommandPlan := by
  intro s t hs hp h
  obtain h | h | h := step_turn h
  · exact seqTurn_commandPlan (s := s.tick) hs hp h
  · obtain rfl | hx := engStep_shifted h
    · exact hp
    · exact State.CommandPlan.congr (s := s) hp hx.seq
  · obtain ⟨m, x, rfl⟩ | ⟨op, d, x, ha, rfl⟩ := hostTurn_cases h
    · exact hp
    · exact State.CommandPlan.accepted (s := s.tick) hp ha

end Sys2Proof.Machine

/-! SUPPORT. The FIFO plan (R42, R190, R224, R259): what each row finds in the FIFOs, under every schedule, and
that no push finds TXQ full and no pop RXQ empty. -/

namespace Sys2Proof.Machine

/-! ## The rows that share a plan -/

/-- The rows that find both FIFOs empty, whatever the thresholds. -/
def Label.restRows : List Label :=
  [.done, .in4, .in5, .in6, .in7, .in8, .in9, .in10, .in11, .x1, .we1, .rs1, .id1, .wr1, .wr2, .wr3, .er1,
    .er2, .er3, .er4, .t1, .t2, .wt1, .wt2, .wt3, .pp1, .pp15, .ww1, .ww2, .rd0, .rd1, .rd11, .rd16, .rd17]

/-- The rows that find both FIFOs empty, RXNE meaning "at least one". -/
def Label.clearRows : List Label := [.x2, .x3, .we2, .rs2, .id2, .pp2, .pp3, .rd2, .rd3, .rd7]

/-- The rows between the push of one entry and the arrival of its word. -/
def Label.sentRows : List Label := [.x4, .x5, .rd4, .rd5, .rd8, .rd9]

/-- The rows that find the one word arrived. -/
def Label.arrivedRows : List Label := [.x6, .x7, .rd6, .rd10]

section
variable {s t : State}

theorem State.rowPlan_of_rest (h : s.seq.ust ∈ Label.restRows) : s.RowPlan ↔ s.ctl.Empty := by
  cases hu : s.seq.ust <;> simp [Label.restRows, hu] at h <;> simp [State.RowPlan, hu]

theorem State.rowPlan_of_clear (h : s.seq.ust ∈ Label.clearRows) : s.RowPlan ↔ s.ctl.Holds 0 := by
  cases hu : s.seq.ust <;> simp [Label.clearRows, hu] at h <;> simp [State.RowPlan, hu]

theorem State.rowPlan_of_sent (h : s.seq.ust ∈ Label.sentRows) : s.RowPlan ↔ s.ctl.Holds 1 := by
  cases hu : s.seq.ust <;> simp [Label.sentRows, hu] at h <;> simp [State.RowPlan, hu]

theorem State.rowPlan_of_arrived (h : s.seq.ust ∈ Label.arrivedRows) :
    s.RowPlan ↔ s.ctl.txq.length = 0 ∧ s.ctl.Holds 1 := by
  cases hu : s.seq.ust <;> simp [Label.arrivedRows, hu] at h <;> simp [State.RowPlan, hu]

/-! ## Room for every push and a word for every pop (R224, R259) -/

/-- The rows that write a transmit port (Tables 42-1, 43-2, 45-1). -/
theorem ust_of_pushes {i : Instr} (hm : microInstr s = some i) (hi : Instr.pushes i = true) :
    s.seq.ust ∈ [Label.x3, .rd3, .rd7, .pp3, .pp4, .pp9, .rd12, .l3] := by
  cases hu : s.seq.ust with
  | x3 | rd3 | rd7 | pp3 | pp4 | pp9 | rd12 | l3 => decide
  | wt2 =>
    simp only [microInstr, hu] at hm
    split at hm <;> cases hm
    cases hi
  | _ =>
    simp only [microInstr, hu, reduceCtorEq, Option.some.injEq] at hm
    all_goals (subst hm; cases hi)

/-- The rows that read RXD (Tables 41-1, 42-1, 45-1). -/
theorem ust_of_pop {dst : PopDest} (hm : microInstr s = some (.pop dst)) :
    s.seq.ust ∈ [Label.dr2, .x7, .rd6, .rd10, .l5] := by
  cases hu : s.seq.ust with
  | dr2 | x7 | rd6 | rd10 | l5 => decide
  | wt2 | rd7 =>
    simp only [microInstr, hu] at hm
    split at hm <;> cases hm
  | _ => simp [microInstr, hu] at hm

/-- Under the plan a push finds room in TXQ (R224(a), R259(a)). -/
theorem State.RowPlan.room (hp : s.RowPlan) (hd : s.par.DepthsSuffice) {i : Instr}
    (hm : microInstr s = some i) (hi : Instr.pushes i = true) : s.ctl.txq.length < s.par.txDepth := by
  obtain ⟨htx, -⟩ := hd
  have hrow := ust_of_pushes hm hi
  simp only [List.mem_cons, List.not_mem_nil, or_false] at hrow
  obtain hu | hu | hu | hu | hu | hu | hu | hu := hrow
  all_goals
    simp only [State.RowPlan, hu, Ctl.Holds] at hp
    omega

/-- Under the plan a pop finds a word in RXQ (R224(b), R259(b)). -/
theorem State.RowPlan.word (hp : s.RowPlan) {dst : PopDest} (hm : microInstr s = some (.pop dst)) :
    s.ctl.rxq ≠ [] := by
  refine List.ne_nil_of_length_pos ?_
  have hrow := ust_of_pop hm
  simp only [List.mem_cons, List.not_mem_nil, or_false] at hrow
  obtain hu | hu | hu | hu | hu := hrow
  all_goals
    simp only [State.RowPlan, hu, Ctl.Holds] at hp
    omega

/-- SEQ's turn under the plan sets neither flag. -/
theorem seqTurn_flags (hp : s.RowPlan) (hd : s.par.DepthsSuffice) (h : seqTurn s = .next t) :
    t.flags.txOverflow = s.flags.txOverflow ∧ t.flags.rxUnderflow = s.flags.rxUnderflow := by
  obtain ⟨i, hm, hx⟩ | ⟨-, hx⟩ | ⟨-, hx⟩ := seqTurn_cases h
  · by_cases hi : Instr.pushes i = true
    · obtain ⟨e, -, hf⟩ := exec_pushes_fifo hi hx
      rw [hf, txAppend_of_room e (hp.room hd hm hi)]
      exact ⟨rfl, rfl⟩
    by_cases hdst : ∃ dst, i = .pop dst
    · obtain ⟨dst, rfl⟩ := hdst
      obtain ⟨-, hf⟩ := exec_pop_fifo hx
      obtain ⟨w, q, hq⟩ := List.exists_cons_of_ne_nil (hp.word hm)
      rw [hf, rxTake_of_cons hq]
      exact ⟨rfl, rfl⟩
    · obtain ⟨m, -⟩ := exec_frame hx
      exact ⟨(m.txq (Bool.eq_false_of_not_eq_true hi)).2, (m.rxq fun dst hi => hdst ⟨dst, hi⟩).2⟩
  · rw [hx.flags]
    exact ⟨rfl, rfl⟩
  · rw [hx.flags]
    exact ⟨rfl, rfl⟩

end

/-- Settles O56: under the plan every push has room and every pop a word, and ENG sets neither flag. -/
theorem noScheduleOverflowsOrUnderflows : Obligations.NoScheduleOverflowsOrUnderflows := by
  intro s t _ hp hd h
  obtain h | h | h := step_turn h
  · exact seqTurn_flags (s := s.tick) hp.1 hd h
  · obtain rfl | hx := engStep_shifted h
    · exact ⟨rfl, rfl⟩
    · exact ⟨hx.txOverflow, hx.rxUnderflow⟩
  · obtain ⟨m, x, rfl⟩ | ⟨op, d, x, -, rfl⟩ := hostTurn_cases h <;> exact ⟨rfl, rfl⟩

/-! ## What a row does to the controller and to SEQ's registers, under the plan -/

section
variable {s t : State}

/-- A push appends one entry. -/
theorem seqTurn_push_ctl (hp : s.RowPlan) (hd : s.par.DepthsSuffice) {i : Instr}
    (hm : microInstr s = some i) (hi : Instr.pushes i = true) (h : seqTurn s = .next t) :
    ∃ e, t.ctl = { s.ctl with txq := s.ctl.txq ++ [e] } := by
  obtain ⟨e, hctl, -⟩ := exec_pushes_fifo hi ((seqTurn_of_microInstr hm).symm.trans h)
  rw [txAppend_of_room e (hp.room hd hm hi)] at hctl
  exact ⟨e, hctl⟩

/-- A pop takes the head of RXQ. -/
theorem seqTurn_pop_ctl (hp : s.RowPlan) {dst : PopDest} (hm : microInstr s = some (.pop dst))
    (h : seqTurn s = .next t) : ∃ w q, s.ctl.rxq = w :: q ∧ t.ctl = { s.ctl with rxq := q } := by
  obtain ⟨w, q, hq⟩ := List.exists_cons_of_ne_nil (hp.word hm)
  obtain ⟨hctl, -⟩ := exec_pop_fifo ((seqTurn_of_microInstr hm).symm.trans h)
  rw [rxTake_of_cons hq] at hctl
  exact ⟨w, q, hq, hctl⟩

theorem seqTurn_setRxth_ctl {n : Nat} (hm : microInstr s = some (.setRxth n)) (h : seqTurn s = .next t) :
    t.ctl = { s.ctl with rxThres := n } := by
  obtain ⟨-, ha⟩ := execSetRxth_eq_next ((seqTurn_of_microInstr hm).symm.trans h)
  obtain ⟨q, rfl⟩ := State.advance_eq_next ha
  rfl

theorem seqTurn_setTxth_ctl {n : Nat} (hm : microInstr s = some (.setTxth n)) (h : seqTurn s = .next t) :
    t.ctl = { s.ctl with txThres := n } := by
  obtain ⟨-, ha⟩ := execSetTxth_eq_next ((seqTurn_of_microInstr hm).symm.trans h)
  obtain ⟨q, rfl⟩ := State.advance_eq_next ha
  rfl

/-- The instruction neither reads nor writes a FIFO, nor sets a threshold. -/
def Instr.sparesFifos : Instr → Bool
  | .csOn | .csOff | .start | .poll _ | .xfer _ _ | .waitWip | .programPage _ _ | .rxDrain => true
  | _ => false

/-- FIFOs and thresholds are the same. -/
structure Ctl.SameFifos (c d : Ctl) : Prop where
  txq : d.txq = c.txq
  rxq : d.rxq = c.rxq
  rxThres : d.rxThres = c.rxThres
  txThres : d.txThres = c.txThres

theorem exec_sameFifos {i : Instr} (hi : Instr.sparesFifos i = true) (h : exec i s = .next t) :
    s.ctl.SameFifos t.ctl := by
  have hpush : Instr.pushes i = false := by
    cases i with
    | csOn | csOff | start | poll | xfer | waitWip | programPage | rxDrain => rfl
    | _ => cases hi
  obtain ⟨m, -⟩ := exec_frame h
  obtain ⟨htx, -⟩ := m.txq hpush
  obtain ⟨hrx, -⟩ := m.rxq fun dst hd => by subst hd; cases hi
  have hrxt := m.rxThres fun n hn => by subst hn; cases hi
  have htxt := m.txThres fun n hn => by subst hn; cases hi
  exact ⟨htx, hrx, hrxt, htxt⟩

theorem seqTurn_sameFifos {i : Instr} (hm : microInstr s = some i) (hi : Instr.sparesFifos i = true)
    (h : seqTurn s = .next t) : s.ctl.SameFifos t.ctl :=
  exec_sameFifos hi ((seqTurn_of_microInstr hm).symm.trans h)

/-- The end of a row looks at neither `shadow` nor `tmp`. -/
theorem Seq.afterRow_access (q : Seq) (c : Option CtlConfig) (w : Word) :
    Seq.afterRow { q with shadow := c, tmp := w } = { q.afterRow with shadow := c, tmp := w } := by
  cases hu : q.ust <;> simp only [Seq.afterRow, hu, Seq.burst, Seq.afterRefill, Seq.afterDrain]
  case pp4 | pp9 | rd12 | l3 | l5 => split <;> rfl

/-- A row that is an access, but no POLL and not X7, ends in `afterRow`. -/
theorem seqTurn_ends {i : Instr} (hm : microInstr s = some i) (hi : Instr.isAccess i = true)
    (hx : s.seq.ust ≠ .x7) (hpoll : ∀ f, i ≠ .poll f) (h : seqTurn s = .next t) :
    ∃ c w, t.seq = { s.seq.afterRow with shadow := c, tmp := w } := by
  obtain ⟨u, ⟨c, w, hu⟩, ha | ⟨⟨f, hf, -⟩, -⟩⟩ :=
    exec_access ((seqTurn_of_microInstr hm).symm.trans h) hi
  · rw [State.advance_of_ne (by rwa [hu])] at ha
    cases ha
    exact ⟨c, w, (congrArg Seq.afterRow hu).trans (s.seq.afterRow_access c w)⟩
  · exact absurd hf (hpoll f)

/-- A POLL stays at its row, or finds its flag 1 and ends (R177). -/
theorem seqTurn_poll {f : PollFlag} (hm : microInstr s = some (.poll f)) (hx : s.seq.ust ≠ .x7)
    (h : seqTurn s = .next t) :
    t.seq = s.seq ∨ s.ctl.pollFlag f = true ∧ t.seq = s.seq.afterRow := by
  obtain ⟨hf, ha⟩ | ⟨-, rfl⟩ := execPoll_eq_next ((seqTurn_of_microInstr hm).symm.trans h)
  · cases (State.advance_of_ne (s := ctlReadStatus s) hx).symm.trans ha
    exact .inr ⟨hf, rfl⟩
  · exact .inl rfl

end

end Sys2Proof.Machine

/-! SUPPORT. The FIFO plan along the rows with both FIFOs empty, INIT's included, and along the exchanges of
one entry (R42, R190). -/

namespace Sys2Proof.Machine

/-! ## The rows with both FIFOs empty -/

section
variable {s t : State}

theorem State.rowPlan_of_empty (he : s.ctl.Empty) (hu : s.seq.ust = .idle ∨ s.seq.ust ∈ Label.restRows) :
    s.RowPlan := by
  obtain hu | hu := hu
  · simp only [State.RowPlan, hu]
    exact .inr he
  · exact (State.rowPlan_of_rest hu).mpr he

theorem Ctl.Holds.empty {c : Ctl} (h : c.Holds 0) : c.Empty :=
  Nat.add_eq_zero_iff.mp h.1

theorem State.rowPlan_of_holds_zero (h : s.ctl.Holds 0)
    (hu : s.seq.ust ∈ Label.restRows ++ Label.clearRows) : s.RowPlan := by
  obtain hu | hu := List.mem_append.mp hu
  · exact (State.rowPlan_of_rest hu).mpr h.empty
  · exact (State.rowPlan_of_clear hu).mpr h

/-- But for IN3, the pushes and the pops, SEQ's turn leaves both FIFOs alone. -/
theorem seqTurn_queues (h : seqTurn s = .next t) (h3 : s.seq.ust ≠ .in3)
    (hno : ∀ i, microInstr s = some i → Instr.pushes i = false ∧ ∀ dst, i ≠ .pop dst) :
    t.ctl.txq = s.ctl.txq ∧ t.ctl.rxq = s.ctl.rxq := by
  obtain ⟨i, hm, hx⟩ | ⟨-, hx⟩ | ⟨-, hx⟩ := seqTurn_cases h
  · obtain ⟨m, -⟩ := exec_frame hx
    obtain ⟨hpush, hpop⟩ := hno i hm
    exact ⟨(m.txq hpush).1, (m.rxq hpop).1⟩
  · exact hx.queues h3
  · rw [hx.ctl]
    exact ⟨rfl, rfl⟩

/-- The rows that find the FIFOs empty lead to such rows or to IDLE, but for those that set RX_THRES and
RD11. -/
theorem Label.rest_goes : ∀ l ∈ Label.restRows, l ≠ .x1 → l ≠ .rd1 → l ≠ .rd11 →
    (∀ m ∈ l.goes ++ l.calls, m = .idle ∨ m ∈ Label.restRows) ∧
      (l ∈ Label.returns → ∀ r ∈ l.callers, r.target ∈ Label.restRows) := by
  decide

theorem noFifoAccess_of_restRow {i : Instr} (hr : s.seq.ust ∈ Label.restRows) (hm : microInstr s = some i) :
    Instr.pushes i = false ∧ ∀ dst, i ≠ .pop dst := by
  refine ⟨Bool.eq_false_of_not_eq_true fun hi => ?_, ?_⟩
  · have hrow := ust_of_pushes hm hi
    revert hr hrow
    generalize s.seq.ust = l
    cases l <;> decide
  · rintro dst rfl
    have hrow := ust_of_pop hm
    revert hr hrow
    generalize s.seq.ust = l
    cases l <;> decide

theorem seqTurn_rowPlan_of_rest (hs : s.StackInvariant) (hp : s.RowPlan) (h : seqTurn s = .next t)
    (hr : s.seq.ust ∈ Label.restRows) (hx1 : s.seq.ust ≠ .x1) (hrd1 : s.seq.ust ≠ .rd1)
    (hrd11 : s.seq.ust ≠ .rd11) : t.RowPlan := by
  have h3 : s.seq.ust ≠ .in3 := fun h3 => absurd (h3 ▸ hr) (by decide)
  obtain ⟨htx, hrx⟩ := seqTurn_queues h h3 fun i => noFifoAccess_of_restRow hr
  have hempty : t.ctl.Empty := by
    rw [Ctl.Empty, htx, hrx]
    exact (State.rowPlan_of_rest hr).mp hp
  obtain ⟨hgoes, hreturns⟩ := Label.rest_goes _ hr hx1 hrd1 hrd11
  refine State.rowPlan_of_empty hempty ?_
  obtain ⟨hl, -⟩ | ⟨hl, -⟩ | ⟨q, hl, hq⟩ := seqTurn_flow h
  · exact hgoes _ (List.mem_append_left _ hl)
  · exact hgoes _ (List.mem_append_right _ hl)
  · obtain ⟨⟨r, hr, hu⟩, -⟩ := Seq.returnVia_target hs.1 hq
    exact .inr (hu ▸ hreturns hl r hr)

/-! ## One entry, sent and answered (R190) -/

/-- From a row that neither calls nor returns SEQ goes to one of its successors. -/
theorem seqTurn_ust_mem (h : seqTurn s = .next t) {l : Label} {rows : List Label} (hu : s.seq.ust = l)
    (hl : l.calls = [] ∧ l ∉ Label.returns ∧ ∀ m ∈ l.goes, m ∈ rows := by decide) : t.seq.ust ∈ rows := by
  obtain ⟨hcalls, hreturns, hgoes⟩ := hl
  obtain ⟨hmem, -⟩ := (seqTurn_flow h).mem_goes (hu ▸ hcalls) (hu ▸ hreturns)
  exact hgoes _ (hu ▸ hmem)

/-- A finished row goes to its one successor. -/
theorem Seq.afterRow_ust_of_plain {q : Seq} {l : Label} {rows : List Label} (hu : q.ust = l)
    (hl : l ∉ Label.countedRows ∧ l.succ ∈ rows := by decide) : q.afterRow.ust ∈ rows := by
  rw [Seq.afterRow_of_plain (hu ▸ hl.1), hu]
  exact hl.2

/-- A return from XFER, WREN, RDSR or RDID finds the caller's FIFOs empty. -/
theorem rowPlan_of_return (hs : s.StackInvariant) {q : Seq} (hq : Seq.returnVia s.seq.stk q = some t.seq)
    (hl : s.seq.ust ∈ [Label.x7, .we2, .rs2, .id2]) (hz : t.ctl.Holds 0) : t.RowPlan := by
  have targets : ∀ l ∈ [Label.x7, .we2, .rs2, .id2], ∀ r ∈ l.callers,
      r.target ∈ Label.restRows ++ Label.clearRows := by decide
  obtain ⟨⟨r, hr, hu⟩, -⟩ := Seq.returnVia_target hs.1 hq
  exact State.rowPlan_of_holds_zero hz (hu ▸ targets _ hl r hr)

/-- SEQ's turn at a row that can only return. -/
theorem seqTurn_returns (h : seqTurn s = .next t) (hl : s.seq.ust ∈ [Label.x7, .we2, .rs2, .id2]) :
    ∃ q, Seq.returnVia s.seq.stk q = some t.seq := by
  have only : ∀ l ∈ [Label.x7, .we2, .rs2, .id2], l.goes = [] ∧ l.calls = [] := by decide
  obtain ⟨hgoes, hcalls⟩ := only _ hl
  obtain ⟨hl, -⟩ | ⟨hl, -⟩ | ⟨q, -, hq⟩ := seqTurn_flow h
  · rw [hgoes] at hl
    cases hl
  · rw [hcalls] at hl
    cases hl
  · exact ⟨q, hq⟩

/-- X1 and RD1 set RX_THRES to 1. -/
theorem seqTurn_rowPlan_of_setRxth (he : s.ctl.Empty) (h : seqTurn s = .next t)
    (hu : s.seq.ust = .x1 ∨ s.seq.ust = .rd1) : t.RowPlan := by
  have hm : microInstr s = some (.setRxth 1) := by
    obtain hu | hu := hu <;> simp only [microInstr, hu]
  have hz : t.ctl.Holds 0 := by
    rw [seqTurn_setRxth_ctl hm h]
    exact ⟨Nat.add_eq_zero_iff.mpr he, rfl⟩
  refine State.rowPlan_of_holds_zero hz ?_
  obtain hu | hu := hu <;> exact seqTurn_ust_mem h hu

/-- An entry pushed into empty FIFOs. -/
theorem holds_one_of_push (hp : s.RowPlan) (hd : s.par.DepthsSuffice) (hz : s.ctl.Holds 0) {i : Instr}
    (hm : microInstr s = some i) (hi : Instr.pushes i = true) (h : seqTurn s = .next t) : t.ctl.Holds 1 := by
  obtain ⟨e, hctl⟩ := seqTurn_push_ctl hp hd hm hi h
  obtain ⟨hsum, hthres⟩ := hz
  rw [hctl]
  refine ⟨?_, hthres⟩
  simp only [List.length_append, List.length_singleton]
  omega

theorem Ctl.SameFifos.holds {c d : Ctl} (h : c.SameFifos d) {m : Nat} (hc : c.Holds m) : d.Holds m := by
  rwa [Ctl.Holds, h.txq, h.rxq, h.rxThres]

theorem seqTurn_rowPlan_of_clear (hs : s.StackInvariant) (hp : s.RowPlan) (hd : s.par.DepthsSuffice)
    (h : seqTurn s = .next t) (hr : s.seq.ust ∈ Label.clearRows) (hpp3 : s.seq.ust ≠ .pp3) : t.RowPlan := by
  have hz := (State.rowPlan_of_clear hr).mp hp
  cases hu : s.seq.ust with
  | x2 | pp2 | rd2 =>
    have hm : microInstr s = some .csOn := by simp only [microInstr, hu]
    have hf := (seqTurn_sameFifos hm rfl h).holds hz
    exact (State.rowPlan_of_clear (seqTurn_ust_mem h hu)).mpr hf
  | x3 | rd3 =>
    have hone := holds_one_of_push hp hd hz (by simp only [microInstr, hu]; rfl) rfl h
    exact (State.rowPlan_of_sent (seqTurn_ust_mem h hu)).mpr hone
  | rd7 =>
    have hi : Instr.pushes (if s.par.readDummy then .adr4 s.seq.addr else .adr3 s.seq.addr) = true := by
      split <;> rfl
    have hone := holds_one_of_push hp hd hz (by simp only [microInstr, hu]) hi h
    exact (State.rowPlan_of_sent (seqTurn_ust_mem h hu)).mpr hone
  | we2 | rs2 | id2 =>
    have hl : s.seq.ust ∈ [Label.x7, .we2, .rs2, .id2] := by rw [hu]; decide
    have hctl : t.ctl = s.ctl := by
      have hlocal := (seqTurn_of_no_microInstr (by simp only [microInstr, hu])).symm.trans h
      exact (localStep_registersOnly (by rw [hu]; decide) hlocal).ctl
    obtain ⟨q, hq⟩ := seqTurn_returns h hl
    exact rowPlan_of_return hs hq hl (hctl ▸ hz)
  | pp3 => exact absurd hu hpp3
  | _ => simp [Label.clearRows, hu] at hr

/-- A start, or a POLL that waits or finds the word: with RXNE the one entry has been answered (R190). -/
theorem seqTurn_rowPlan_of_sent (hp : s.RowPlan) (h : seqTurn s = .next t)
    (hr : s.seq.ust ∈ Label.sentRows) : t.RowPlan := by
  have hone := (State.rowPlan_of_sent hr).mp hp
  cases hu : s.seq.ust with
  | x4 | rd4 | rd8 =>
    have hm : microInstr s = some .start := by simp only [microInstr, hu]
    have hf := (seqTurn_sameFifos hm rfl h).holds hone
    exact (State.rowPlan_of_sent (seqTurn_ust_mem h hu)).mpr hf
  | x5 | rd5 | rd9 =>
    have hm : microInstr s = some (.poll .rxne) := by simp only [microInstr, hu]
    have hf := seqTurn_sameFifos hm rfl h
    obtain hstay | ⟨hflag, hends⟩ := seqTurn_poll hm (by rw [hu]; decide) h
    · exact (State.rowPlan_of_sent (by rw [hstay]; exact hr)).mpr (hf.holds hone)
    · have hrx : s.ctl.rxThres ≤ s.ctl.rxq.length := of_decide_eq_true hflag
      have hafter : t.seq.ust ∈ Label.arrivedRows := hends ▸ Seq.afterRow_ust_of_plain hu
      refine (State.rowPlan_of_arrived hafter).mpr ⟨?_, hf.holds hone⟩
      obtain ⟨hsum, hthres⟩ := hone
      rw [hf.txq]
      omega
  | _ => simp [Label.sentRows, hu] at hr

theorem seqTurn_rowPlan_of_arrived (hs : s.StackInvariant) (hp : s.RowPlan) (h : seqTurn s = .next t)
    (hr : s.seq.ust ∈ Label.arrivedRows) : t.RowPlan := by
  obtain ⟨htx, hone⟩ := (State.rowPlan_of_arrived hr).mp hp
  have popped {dst : PopDest} (hm : microInstr s = some (.pop dst)) : t.ctl.Holds 0 := by
    obtain ⟨w, q, hq, hctl⟩ := seqTurn_pop_ctl hp hm h
    obtain ⟨hsum, hthres⟩ := hone
    rw [hq, List.length_cons] at hsum
    rw [hctl]
    exact ⟨show s.ctl.txq.length + q.length = 0 by omega, hthres⟩
  cases hu : s.seq.ust with
  | x6 =>
    have hf := seqTurn_sameFifos (i := .csOff) (by simp only [microInstr, hu]) rfl h
    exact (State.rowPlan_of_arrived (seqTurn_ust_mem h hu)).mpr ⟨by rw [hf.txq, htx], hf.holds hone⟩
  | x7 =>
    have hl : s.seq.ust ∈ [Label.x7, .we2, .rs2, .id2] := by rw [hu]; decide
    obtain ⟨q, hq⟩ := seqTurn_returns h hl
    exact rowPlan_of_return hs hq hl (popped (dst := .tmp) (by simp only [microInstr, hu]))
  | rd6 | rd10 =>
    have hz := popped (dst := .discard) (by simp only [microInstr, hu])
    exact State.rowPlan_of_holds_zero hz (seqTurn_ust_mem h hu)
  | _ => simp [Label.arrivedRows, hu] at hr

end

end Sys2Proof.Machine

/-! SUPPORT. The FIFO plan along a page program and its drains (R221, R224). -/

namespace Sys2Proof.Machine

/-! ## The page program (R221, R224) -/

section
variable {s t : State}

/-- A push of a burst: `k` counts it. -/
theorem toNat_succ_of_lt {k : BitVec 7} (h : k.toNat < 127) : (k + 1).toNat = k.toNat + 1 := by
  have hadd := BitVec.toNat_add k 1
  have hone : (1 : BitVec 7).toNat = 1 := rfl
  omega

theorem seqTurn_rowPlan_pp3 (hp : s.RowPlan) (hd : s.par.DepthsSuffice) (h : seqTurn s = .next t)
    (hu : s.seq.ust = .pp3) : t.RowPlan := by
  have hz := (State.rowPlan_of_clear (by rw [hu]; decide)).mp hp
  have hm : microInstr s = some (.opa4 s.par.opcPp s.seq.pa) := by simp only [microInstr, hu]
  have hone := holds_one_of_push hp hd hz hm rfl h
  obtain ⟨c, w, hseq⟩ := seqTurn_ends hm rfl (by rw [hu]; decide) nofun h
  rw [Seq.afterRow_pp3 hu] at hseq
  simp only [State.RowPlan, hseq]
  exact ⟨hone, by decide⟩

theorem seqTurn_rowPlan_pp4 (hp : s.RowPlan) (hd : s.par.DepthsSuffice) (h : seqTurn s = .next t)
    (hu : s.seq.ust = .pp4) : t.RowPlan := by
  have hm : microInstr s = some (.dat4 (s.seq.pb + s.seq.k.zeroExtend 32)) := by simp only [microInstr, hu]
  obtain ⟨e, hctl⟩ := seqTurn_push_ctl hp hd hm rfl h
  obtain ⟨c, w, hseq⟩ := seqTurn_ends hm rfl (by rw [hu]; decide) nofun h
  rw [Seq.afterRow_pp4 hu] at hseq
  simp only [State.RowPlan, hu, Ctl.Holds] at hp
  obtain ⟨⟨hsum, hthres⟩, hk⟩ := hp
  by_cases hlast : s.seq.k.toNat + 1 < 16
  · have hk' := toNat_succ_of_lt (k := s.seq.k) (by omega)
    rw [if_pos hlast] at hseq
    simp only [State.RowPlan, hseq, hu, Ctl.Holds, hctl, List.length_append, List.length_singleton]
    omega
  · rw [if_neg hlast] at hseq
    simp only [State.RowPlan, hseq, Ctl.Holds, hctl, List.length_append, List.length_singleton]
    exact ⟨⟨by omega, hthres⟩, rfl⟩

/-- An access, but no POLL, whose row has the one successor `m`. -/
theorem seqTurn_plain {i : Instr} {l : Label} (m : Label) (hm : microInstr s = some i)
    (hi : Instr.isAccess i = true) (hpoll : ∀ f, i ≠ .poll f) (hu : s.seq.ust = l) (h : seqTurn s = .next t)
    (hl : l ≠ .x7 ∧ l ∉ Label.countedRows ∧ l.succ = m := by decide) :
    ∃ c w, t.seq = { s.seq with shadow := c, tmp := w, ust := m } := by
  obtain ⟨hx, hc, hsucc⟩ := hl
  obtain ⟨c, w, hseq⟩ := seqTurn_ends hm hi (hu ▸ hx) hpoll h
  rw [Seq.afterRow_of_plain (hu ▸ hc), hu, hsucc] at hseq
  exact ⟨c, w, hseq⟩

/-- PP5 sets TXNF to "at least 48 entries free" (R222). -/
theorem seqTurn_rowPlan_pp5 (hp : s.RowPlan) (hd : s.par.DepthsSuffice) (h : seqTurn s = .next t)
    (hu : s.seq.ust = .pp5) : t.RowPlan := by
  have hm : microInstr s = some (.setTxth (s.par.txDepth - 48 + 1)) := by
    simp only [microInstr, hu, Config.burst2]
  obtain ⟨c, w, hseq⟩ := seqTurn_plain .pp6 hm rfl nofun hu h
  have hpar := (seqTurn_setupFrame h).par
  have hctl := seqTurn_setTxth_ctl hm h
  simp only [State.RowPlan, hu] at hp
  simp only [State.RowPlan, hseq, Ctl.Holds, hctl, hpar]
  exact ⟨hp.1, hp.2, by have := hd.1; omega⟩

theorem seqTurn_rowPlan_pp6 (hp : s.RowPlan) (h : seqTurn s = .next t) (hu : s.seq.ust = .pp6) :
    t.RowPlan := by
  have hm : microInstr s = some .start := by simp only [microInstr, hu]
  obtain ⟨c, w, hseq⟩ := seqTurn_plain .pp7 hm rfl nofun hu h
  have hpar := (seqTurn_setupFrame h).par
  have hf := seqTurn_sameFifos hm rfl h
  simp only [State.RowPlan, hu] at hp
  simp only [State.RowPlan, hseq, hf.txThres, hpar]
  exact ⟨hf.holds hp.1, hp.2⟩

/-- PP7 waits until the second burst has room (R224(a)). -/
theorem seqTurn_rowPlan_pp7 (hp : s.RowPlan) (h : seqTurn s = .next t) (hu : s.seq.ust = .pp7) :
    t.RowPlan := by
  have hm : microInstr s = some (.poll .txnf) := by simp only [microInstr, hu]
  have hpar := (seqTurn_setupFrame h).par
  have hf := seqTurn_sameFifos hm rfl h
  simp only [State.RowPlan, hu] at hp
  obtain ⟨hholds, hk, hthres⟩ := hp
  obtain hseq | ⟨hflag, hseq⟩ := seqTurn_poll hm (by rw [hu]; decide) h
  · simp only [State.RowPlan, hseq, hu, hf.txThres, hpar]
    exact ⟨hf.holds hholds, hk, hthres⟩
  · have hroom : s.ctl.txq.length < s.ctl.txThres := of_decide_eq_true hflag
    rw [Seq.afterRow_of_plain (by rw [hu]; decide), hu] at hseq
    simp only [State.RowPlan, hseq, Label.succ, hf.txq, hf.rxThres, hpar]
    exact ⟨hholds.2, hk, by omega⟩

/-- A call leaves the controller alone. -/
theorem seqTurn_call {i : Instr} {l : Label} (hm : microInstr s = some i) (hc : Instr.callee i = some l)
    (h : seqTurn s = .next t) :
    ∃ q, t = s.setSeq q ∧ q.ust = l ∧ q.stk = s.seq.returnRecord :: s.seq.stk :=
  exec_of_callee hc ((seqTurn_of_microInstr hm).symm.trans h)

/-- PP8 and PP14 call RX_DRAIN with PROGRAM_PAGE's registers in the record (R221, log 16). -/
theorem seqTurn_rowPlan_pp8 (hp : s.RowPlan) (h : seqTurn s = .next t) (hu : s.seq.ust = .pp8) :
    t.RowPlan := by
  obtain ⟨q, rfl, hq, hk⟩ := seqTurn_call (i := .rxDrain) (by simp only [microInstr, hu]) rfl h
  simp only [State.RowPlan, hu] at hp
  obtain ⟨hthres, hcount, hroom⟩ := hp
  have hk16 : s.seq.k = BitVec.ofNat 7 16 := BitVec.eq_of_toNat_eq hcount
  simp [State.RowPlan, hq, hk, Ctl.DrainPlan, Seq.returnRecord, Seq.liveRegs, hu, Label.succ, Config.burst1,
    hthres, hroom, hk16]

theorem seqTurn_rowPlan_pp14 (hp : s.RowPlan) (h : seqTurn s = .next t) (hu : s.seq.ust = .pp14) :
    t.RowPlan := by
  obtain ⟨q, rfl, hq, hk⟩ := seqTurn_call (i := .rxDrain) (by simp only [microInstr, hu]) rfl h
  simp only [State.RowPlan, hu] at hp
  simp [State.RowPlan, hq, hk, Ctl.DrainPlan, Seq.returnRecord, Seq.liveRegs, hu, Label.succ, hp]

theorem seqTurn_rowPlan_pp9 (hp : s.RowPlan) (hd : s.par.DepthsSuffice) (h : seqTurn s = .next t)
    (hu : s.seq.ust = .pp9) : t.RowPlan := by
  have hm : microInstr s = some (.dat4 (s.seq.pb + s.seq.k.zeroExtend 32)) := by simp only [microInstr, hu]
  obtain ⟨e, hctl⟩ := seqTurn_push_ctl hp hd hm rfl h
  obtain ⟨c, w, hseq⟩ := seqTurn_ends hm rfl (by rw [hu]; decide) nofun h
  have hpar := (seqTurn_setupFrame h).par
  rw [Seq.afterRow_pp9 hu] at hseq
  simp only [State.RowPlan, hu] at hp
  obtain ⟨hthres, hge, hlt, hroom⟩ := hp
  by_cases hlast : s.seq.k.toNat + 1 < 64
  · have hk' := toNat_succ_of_lt (k := s.seq.k) (by omega)
    rw [Seq.burst_of_lt hlast] at hseq
    simp only [State.RowPlan, hseq, hu, hctl, hpar, List.length_append, List.length_singleton]
    omega
  · rw [Seq.burst_of_last (by omega)] at hseq
    simp only [State.RowPlan, hseq, hctl]
    exact hthres

theorem seqTurn_rowPlan_pp10 (hp : s.RowPlan) (h : seqTurn s = .next t) (hu : s.seq.ust = .pp10) :
    t.RowPlan := by
  have hm : microInstr s = some .start := by simp only [microInstr, hu]
  obtain ⟨c, w, hseq⟩ := seqTurn_plain .pp11 hm rfl nofun hu h
  have hf := seqTurn_sameFifos hm rfl h
  simp only [State.RowPlan, hu] at hp
  simp only [State.RowPlan, hseq, hf.rxThres]
  exact hp

theorem seqTurn_rowPlan_pp11 (hp : s.RowPlan) (h : seqTurn s = .next t) (hu : s.seq.ust = .pp11) :
    t.RowPlan := by
  have hm : microInstr s = some (.setTxth 1) := by simp only [microInstr, hu, Config.thresTail]
  obtain ⟨c, w, hseq⟩ := seqTurn_plain .pp12 hm rfl nofun hu h
  have hctl := seqTurn_setTxth_ctl hm h
  simp only [State.RowPlan, hu] at hp
  simp only [State.RowPlan, hseq, hctl, and_true]
  exact hp

/-- PP12 waits until TXQ is empty (R224). -/
theorem seqTurn_rowPlan_pp12 (hp : s.RowPlan) (h : seqTurn s = .next t) (hu : s.seq.ust = .pp12) :
    t.RowPlan := by
  have hm : microInstr s = some (.poll .txnf) := by simp only [microInstr, hu]
  have hf := seqTurn_sameFifos hm rfl h
  simp only [State.RowPlan, hu] at hp
  obtain ⟨hrx, htx⟩ := hp
  obtain hseq | ⟨hflag, hseq⟩ := seqTurn_poll hm (by rw [hu]; decide) h
  · simp only [State.RowPlan, hseq, hu, hf.rxThres, hf.txThres]
    exact ⟨hrx, htx⟩
  · have hroom : s.ctl.txq.length < s.ctl.txThres := of_decide_eq_true hflag
    rw [Seq.afterRow_of_plain (by rw [hu]; decide), hu] at hseq
    simp only [State.RowPlan, hseq, Label.succ, hf.txq, hf.rxThres]
    exact ⟨hrx, by omega⟩

theorem seqTurn_rowPlan_pp13 (hp : s.RowPlan) (h : seqTurn s = .next t) (hu : s.seq.ust = .pp13) :
    t.RowPlan := by
  have hm : microInstr s = some .csOff := by simp only [microInstr, hu]
  obtain ⟨c, w, hseq⟩ := seqTurn_plain .pp14 hm rfl nofun hu h
  have hf := seqTurn_sameFifos hm rfl h
  simp only [State.RowPlan, hu] at hp
  simp only [State.RowPlan, hseq, hf.txq, hf.rxThres]
  exact hp

/-! ## RX_DRAIN (R178, Table 41-1) -/

theorem seqTurn_rowPlan_dr2 (hp : s.RowPlan) (h : seqTurn s = .next t) (hu : s.seq.ust = .dr2) :
    t.RowPlan := by
  have hm : microInstr s = some (.pop .discard) := by simp only [microInstr, hu]
  obtain ⟨c, w, hseq⟩ := seqTurn_plain .dr1 hm rfl nofun hu h
  obtain ⟨v, q, -, hctl⟩ := seqTurn_pop_ctl hp hm h
  have hpar := (seqTurn_setupFrame h).par
  simp only [State.RowPlan, hu] at hp
  simp only [State.RowPlan, hseq, hctl, hpar]
  exact hp.1

theorem Ctl.DrainPlan.rxThres {c : Ctl} {p : Params} {rs : List Record} (h : c.DrainPlan p rs) :
    c.rxThres = 1 := by
  cases rs with
  | nil => cases h
  | cons r rs => exact h.1

/-- DR1 goes on while a word is there, and returns with RXQ empty: to PP9 with `k` back at 16, or to PP15. -/
theorem seqTurn_rowPlan_dr1 (hs : s.StackInvariant) (hp : s.RowPlan) (h : seqTurn s = .next t)
    (hu : s.seq.ust = .dr1) : t.RowPlan := by
  obtain ⟨hdrain, hreturn⟩ := drainStopsAtTheFlag s hu
  simp only [State.RowPlan, hu] at hp
  have hthres := hp.rxThres
  obtain hrx | hrx := Nat.lt_or_ge s.ctl.rxq.length s.ctl.rxThres
  · obtain ⟨q, hq, rfl⟩ := State.doReturn_eq_next ((hreturn hrx).symm.trans h)
    have hempty : s.ctl.rxq.length = 0 := by omega
    obtain ⟨m, v, rest, hk, hm, rfl⟩ | ⟨-, -, -, -, hret, -⟩ := Seq.returnVia_cases (l := .dr1) (hu ▸ hs.1) hq
    · rw [hk] at hp
      obtain ⟨-, hpp9, hpp15⟩ := hp
      have hcallers : m = .pp9 ∨ m = .pp15 := by simpa [Label.callers] using hm
      obtain rfl | rfl := hcallers
      · obtain ⟨hroom, a, b, rfl⟩ := hpp9 rfl
        simp only [State.RowPlan, State.setSeq_seq, State.setSeq_ctl, State.setSeq_par, Seq.resumeAt, Seq.restore]
        exact ⟨hthres, Nat.le_refl 16, by decide, hroom⟩
      · simp only [State.RowPlan, State.setSeq_seq, State.setSeq_ctl, Seq.resumeAt_ust]
        exact ⟨hpp15 rfl, hempty⟩
    · exact absurd hret (by decide)
  · cases (hdrain hrx).symm.trans h
    simp only [State.RowPlan, State.setSeq_seq, State.setSeq_ctl, State.setSeq_par]
    exact ⟨hp, by omega⟩

end

end Sys2Proof.Machine

/-! SUPPORT. The FIFO plan along READ's pump, and along every agent's step (R42, R253 to R259). -/

namespace Sys2Proof.Machine

/-! ## READ's pump (R253 to R256, R259) -/

section
variable {s t : State}

theorem word_eq_zero_iff {w : Word} : w = 0 ↔ w.toNat = 0 := BitVec.toNat_eq

/-- A counter takes off a burst that it covers. -/
theorem toNat_sub_zeroExtend {w : Word} {b : BitVec 7} (h : b.toNat ≤ w.toNat) :
    (w - b.zeroExtend 32).toNat = w.toNat - b.toNat := by
  have hb : (b.zeroExtend 32).toNat = b.toNat :=
    (BitVec.toNat_setWidth 32 b).trans (Nat.mod_eq_of_lt (by omega))
  rw [BitVec.toNat_sub_of_le (BitVec.le_def.mpr (hb.symm ▸ h)), hb]

/-- RD11 puts the primer, the filler still to come and the chunk on the plan (R253, R254). -/
theorem Seq.pumpSetup_plan (q : Seq) (hc : q.count ≠ 0) :
    q.pumpSetup.ust = .rd12 ∧ q.pumpSetup.k.toNat = 0 ∧ q.pumpSetup.rxRem = q.count ∧
      q.pumpSetup.count = q.count ∧ 0 < q.pumpSetup.n.toNat ∧
      q.pumpSetup.n.toNat = min 63 q.count.toNat ∧
      q.pumpSetup.n.toNat + q.pumpSetup.txRem.toNat = q.count.toNat ∧ q.pumpSetup.ChunkPlan := by
  rw [ne_eq, word_eq_zero_iff] at hc
  by_cases hgt : 63 < q.count.toNat
  · have hsub : (q.count - 63).toNat = q.count.toNat - 63 :=
      BitVec.toNat_sub_of_le (BitVec.le_def.mpr hgt.le)
    rw [Seq.pumpSetup_of_gt hgt]
    refine ⟨rfl, rfl, rfl, rfl, (by decide : 0 < (63 : BitVec 7).toNat), (Nat.min_eq_left hgt.le).symm, ?_,
      fun _ hle => ?_, fun _ => rfl⟩
    · rw [hsub]
      exact Nat.add_sub_cancel' hgt.le
    · exact absurd hle (Nat.not_le.mpr hgt)
  · have hle := Nat.le_of_not_lt hgt
    have hn := toNat_truncate_of_le hle
    rw [Seq.pumpSetup_of_le hle]
    refine ⟨rfl, rfl, rfl, rfl, ?_, ?_, hn, fun _ _ => hn, fun h => absurd h hgt⟩
    · exact hn ▸ Nat.pos_of_ne_zero hc
    · exact hn.trans (Nat.min_eq_right hle).symm

theorem seqTurn_rowPlan_rd11 (hp : s.RowPlan) (hc : s.seq.count ≠ 0) (h : seqTurn s = .next t)
    (hu : s.seq.ust = .rd11) : t.RowPlan := by
  cases (seqTurn_rd11 hu).symm.trans h
  obtain ⟨htx, hrx⟩ := (State.rowPlan_of_rest (by rw [hu]; decide)).mp hp
  obtain ⟨hust, hk, hrem, hcount, hpos, hn, htotal, hchunk⟩ := s.seq.pumpSetup_plan hc
  simp only [State.RowPlan, State.setSeq_seq, State.setSeq_ctl, hust, hk, hrem, hcount, true_and]
  exact ⟨by omega, hpos, hn, htotal, hchunk⟩

/-- The primer of `n` words (R253). -/
theorem seqTurn_rowPlan_rd12 (hp : s.RowPlan) (hd : s.par.DepthsSuffice) (h : seqTurn s = .next t)
    (hu : s.seq.ust = .rd12) : t.RowPlan := by
  have hm : microInstr s = some .fil4 := by simp only [microInstr, hu]
  obtain ⟨e, hctl⟩ := seqTurn_push_ctl hp hd hm rfl h
  obtain ⟨c, w, hseq⟩ := seqTurn_ends hm rfl (by rw [hu]; decide) nofun h
  rw [Seq.afterRow_rd12 hu] at hseq
  simp only [State.RowPlan, hu] at hp
  obtain ⟨hsum, hk, hcount, hn, htotal, hchunk⟩ := hp
  by_cases hlast : s.seq.k.toNat + 1 < s.seq.n.toNat
  · have hk' := toNat_succ_of_lt (k := s.seq.k) (by omega)
    rw [Seq.burst_of_lt hlast] at hseq
    simp only [State.RowPlan, hseq, hu, hctl, List.length_append, List.length_singleton]
    exact ⟨by omega, by omega, hcount, hn, htotal, hchunk⟩
  · rw [Seq.burst_of_last (by omega)] at hseq
    simp only [State.RowPlan, State.Outstanding, hseq, hctl, List.length_append, List.length_singleton]
    exact ⟨by omega, by omega, hcount, fun hle => word_eq_zero_iff.mpr (by omega), hchunk⟩

/-- RD13 sets RX_THRES to the chunk; only a READ above 63 words has filler left (R254). -/
theorem seqTurn_rowPlan_rd13 (hp : s.RowPlan) (h : seqTurn s = .next t) (hu : s.seq.ust = .rd13) :
    t.RowPlan := by
  have hm : microInstr s = some (.setRxth s.seq.chunk.toNat) := by simp only [microInstr, hu]
  obtain ⟨c, w, hseq⟩ := seqTurn_ends hm rfl (by rw [hu]; decide) nofun h
  have hctl := seqTurn_setRxth_ctl hm h
  rw [Seq.afterRow_rd13 hu] at hseq
  simp only [State.RowPlan, hu, State.Outstanding] at hp
  obtain ⟨hout, hpos, hcount, htx, hchunk⟩ := hp
  by_cases hgt : 63 < s.seq.count.toNat
  · rw [if_pos hgt] at hseq
    simp only [State.RowPlan, State.Outstanding, hseq, hctl, true_and]
    exact ⟨hout, hchunk⟩
  · rw [if_neg hgt] at hseq
    simp only [State.RowPlan, State.Outstanding, State.PumpPlan, hseq, hctl, true_and]
    exact ⟨hout, hchunk, fun hne => absurd (htx (by rw [hcount]; omega)) hne⟩

/-- RD14 sets TXNF to "at least 32 entries free" (R253). -/
theorem seqTurn_rowPlan_rd14 (hp : s.RowPlan) (hd : s.par.DepthsSuffice) (h : seqTurn s = .next t)
    (hu : s.seq.ust = .rd14) : t.RowPlan := by
  have hm : microInstr s = some (.setTxth (s.par.txDepth - 32 + 1)) := by
    simp only [microInstr, hu, Config.pumpChunk]
  obtain ⟨c, w, hseq⟩ := seqTurn_plain .rd15 hm rfl nofun hu h
  have hpar := (seqTurn_setupFrame h).par
  have hctl := seqTurn_setTxth_ctl hm h
  obtain ⟨htx, -⟩ := hd
  simp only [State.RowPlan, hu, State.Outstanding] at hp
  obtain ⟨hout, hthres, hchunk⟩ := hp
  simp only [State.RowPlan, State.Outstanding, State.PumpPlan, hseq, hctl, hpar]
  exact ⟨hout, hthres, hchunk, fun _ => by omega⟩

theorem seqTurn_rowPlan_rd15 (hp : s.RowPlan) (h : seqTurn s = .next t) (hu : s.seq.ust = .rd15) :
    t.RowPlan := by
  have hm : microInstr s = some .start := by simp only [microInstr, hu]
  obtain ⟨c, w, hseq⟩ := seqTurn_plain .l1 hm rfl nofun hu h
  have hpar := (seqTurn_setupFrame h).par
  have hf := seqTurn_sameFifos hm rfl h
  simp only [State.RowPlan, hu, State.Outstanding, State.PumpPlan] at hp
  simp only [State.RowPlan, State.Outstanding, State.PumpPlan, hseq, hf.txq, hf.rxq, hf.rxThres, hf.txThres, hpar]
  exact hp

/-- L1 ends with nothing outstanding, and else serves the transmit half first (R255). -/
theorem seqTurn_rowPlan_l1 (hp : s.RowPlan) (h : seqTurn s = .next t) (hu : s.seq.ust = .l1) :
    t.RowPlan := by
  cases (seqTurn_l1 hu).symm.trans h
  simp only [State.RowPlan, hu] at hp
  obtain ⟨hout, hpump⟩ := hp
  by_cases hrx : s.seq.rxRem = 0
  · have hz := word_eq_zero_iff.mp hrx
    simp only [State.Outstanding] at hout
    simp only [State.RowPlan, State.setSeq_seq, Seq.pumpTurn, if_pos hrx]
    exact ⟨show s.ctl.txq.length = 0 by omega, show s.ctl.rxq.length = 0 by omega⟩
  by_cases htx : s.seq.txRem = 0
  · simp only [State.RowPlan, State.setSeq_seq, Seq.pumpTurn, if_neg hrx, if_pos htx]
    exact ⟨hout, hpump, hrx⟩
  · simp only [State.RowPlan, State.setSeq_seq, Seq.pumpTurn, if_neg hrx, if_neg htx]
    exact ⟨hout, hpump, htx⟩

/-- L2 begins a burst of at most 32 where 32 entries are free (R255, R259(a)). -/
theorem seqTurn_rowPlan_l2 (hp : s.RowPlan) (h : seqTurn s = .next t) (hu : s.seq.ust = .l2) :
    t.RowPlan := by
  cases (seqTurn_l2 hu).symm.trans h
  simp only [State.RowPlan, hu] at hp
  obtain ⟨hout, ⟨hthres, hchunk, htxthres⟩, htx⟩ := hp
  have hfree := htxthres htx
  have hpos := Nat.pos_of_ne_zero (mt word_eq_zero_iff.mpr htx)
  cases hf : s.ctl.txnf with
  | true =>
    have hroom : s.ctl.txq.length < s.ctl.txThres := of_decide_eq_true hf
    have hn := toNat_burstLength s.seq.txRem.toNat
    simp only [State.RowPlan, State.setSeq_seq, Seq.refill, if_true, Config.pumpChunk, hn]
    refine ⟨show 0 < _ by omega, by omega, hout, ?_, hthres, hchunk, htxthres⟩
    show s.ctl.txq.length + (_ - 0) ≤ s.par.txDepth
    omega
  | false =>
    have hne : s.seq.rxRem ≠ 0 := fun hz => by
      have := word_eq_zero_iff.mp hz
      simp only [State.Outstanding] at hout
      omega
    exact ⟨hout, ⟨hthres, hchunk, htxthres⟩, hne⟩

/-- L3 pushes `n` words, and the last one takes them from `tx_rem` (R255). -/
theorem seqTurn_rowPlan_l3 (hp : s.RowPlan) (hd : s.par.DepthsSuffice) (h : seqTurn s = .next t)
    (hu : s.seq.ust = .l3) : t.RowPlan := by
  have hm : microInstr s = some .fil4 := by simp only [microInstr, hu]
  obtain ⟨e, hctl⟩ := seqTurn_push_ctl hp hd hm rfl h
  obtain ⟨c, w, hseq⟩ := seqTurn_ends hm rfl (by rw [hu]; decide) nofun h
  have hpar := (seqTurn_setupFrame h).par
  rw [Seq.afterRow_l3 hu] at hseq
  simp only [State.RowPlan, hu, State.Outstanding, State.PumpPlan] at hp
  obtain ⟨hk, hn, hout, hroom, hthres, hchunk, htxthres⟩ := hp
  by_cases hlast : s.seq.k.toNat + 1 < s.seq.n.toNat
  · have hk' := toNat_succ_of_lt (k := s.seq.k) (by omega)
    rw [Seq.burst_of_lt hlast] at hseq
    simp only [State.RowPlan, State.Outstanding, State.PumpPlan, hseq, hu, hctl, hpar, hk', List.length_append,
      List.length_singleton]
    exact ⟨hlast, hn, by omega, by omega, hthres, hchunk, htxthres⟩
  · have hsub := toNat_sub_zeroExtend hn
    rw [Seq.burst_of_last (by omega)] at hseq
    simp only [State.RowPlan, State.Outstanding, State.PumpPlan, hseq, Seq.afterRefill, hctl, hpar, hsub,
      List.length_append, List.length_singleton]
    have hpos : s.seq.txRem ≠ 0 := mt word_eq_zero_iff.mp (by omega)
    refine ⟨by omega, ⟨hthres, hchunk, fun _ => htxthres hpos⟩, mt word_eq_zero_iff.mp (by omega)⟩

/-- L4 begins to drain a chunk that has arrived (R255, R259(b)). -/
theorem seqTurn_rowPlan_l4 (hp : s.RowPlan) (h : seqTurn s = .next t) (hu : s.seq.ust = .l4) :
    t.RowPlan := by
  cases (seqTurn_l4 hu).symm.trans h
  simp only [State.RowPlan, hu] at hp
  obtain ⟨hout, ⟨hthres, hchunk, htxthres⟩, hne⟩ := hp
  obtain ⟨hpos, -⟩ := hchunk.legal (Nat.pos_of_ne_zero (mt word_eq_zero_iff.mpr hne))
  cases hf : s.ctl.rxne with
  | true =>
    have hrx : s.ctl.rxThres ≤ s.ctl.rxq.length := of_decide_eq_true hf
    exact ⟨hpos, hthres ▸ hrx, hout, hthres, hchunk, htxthres⟩
  | false => exact ⟨hout, hthres, hchunk, htxthres⟩

/-- L5 pops the chunk, and the last pop takes it from `rx_rem`; the chunk is still right for what is left,
unless L6 is to shorten it (R255, R256). -/
theorem seqTurn_rowPlan_l5 (hp : s.RowPlan) (h : seqTurn s = .next t) (hu : s.seq.ust = .l5) :
    t.RowPlan := by
  have hm : microInstr s = some (.pop (.hbuf (s.seq.off + s.seq.k.zeroExtend 32))) := by
    simp only [microInstr, hu]
  obtain ⟨v, q, hq, hctl⟩ := seqTurn_pop_ctl hp hm h
  obtain ⟨c, w, hseq⟩ := seqTurn_ends hm rfl (by rw [hu]; decide) nofun h
  have hpar := (seqTurn_setupFrame h).par
  rw [Seq.afterRow_l5 hu] at hseq
  simp only [State.RowPlan, hu, State.Outstanding, State.PumpPlan, hq, List.length_cons] at hp
  obtain ⟨hk, hrx, hout, hthres, hchunk, htxthres⟩ := hp
  by_cases hlast : s.seq.k.toNat + 1 < s.seq.chunk.toNat
  · have hk' := toNat_succ_of_lt (k := s.seq.k) (by omega)
    rw [Seq.burst_of_lt hlast] at hseq
    simp only [State.RowPlan, State.Outstanding, State.PumpPlan, hseq, hu, hctl, hpar, hk']
    exact ⟨hlast, by omega, by omega, hthres, hchunk, htxthres⟩
  · have hsub := toNat_sub_zeroExtend (w := s.seq.rxRem) (b := s.seq.chunk) (by omega)
    rw [Seq.burst_of_last (by omega)] at hseq
    simp only [Seq.afterDrain, hsub, Config.startCap] at hseq
    by_cases htail : 0 < s.seq.rxRem.toNat - s.seq.chunk.toNat ∧ s.seq.rxRem.toNat - s.seq.chunk.toNat ≤ 63
    · rw [if_pos htail] at hseq
      simp only [State.RowPlan, State.Outstanding, hseq, hctl, hpar, hsub]
      exact ⟨by omega, htail.1, htail.2, htxthres⟩
    · rw [if_neg htail] at hseq
      simp only [State.RowPlan, State.Outstanding, State.PumpPlan, Seq.ChunkPlan, hseq, hctl, hpar, hsub]
      exact ⟨by omega, hthres, ⟨fun h0 h63 => absurd ⟨h0, h63⟩ htail, fun h63 => hchunk.2 (by omega)⟩,
        htxthres⟩

/-- L6 makes the chunk the exact remainder (R256). -/
theorem seqTurn_rowPlan_l6 (hp : s.RowPlan) (h : seqTurn s = .next t) (hu : s.seq.ust = .l6) :
    t.RowPlan := by
  have hm : microInstr s = some (.setRxth s.seq.rxRem.toNat) := by simp only [microInstr, hu]
  obtain ⟨c, w, hseq⟩ := seqTurn_ends hm rfl (by rw [hu]; decide) nofun h
  have hctl := seqTurn_setRxth_ctl hm h
  have hpar := (seqTurn_setupFrame h).par
  rw [Seq.afterRow_l6 hu] at hseq
  simp only [State.RowPlan, hu, State.Outstanding] at hp
  obtain ⟨hout, hpos, hle, htxthres⟩ := hp
  have htrunc := toNat_truncate_of_le hle
  simp only [State.RowPlan, State.Outstanding, State.PumpPlan, Seq.ChunkPlan, hseq, hctl, hpar, htrunc,
    implies_true, true_and]
  exact ⟨hout, fun h63 => absurd hle (Nat.not_le.mpr h63), htxthres⟩

end

/-! ## The plan along a step (R42) -/

section
variable {s t : State}

/-- IDLE is no row of a table. -/
theorem seqTurn_of_idle (hu : s.seq.ust = .idle) (h : seqTurn s = .next t) : t = s := by
  rw [seqTurn_of_no_microInstr (by simp only [microInstr, hu])] at h
  simp only [localStep, hu] at h
  exact (Host.Outcome.next.inj h).symm

/-- IDLE, where SEQ has no row, and INIT's rows up to the reset pulse (R153). -/
theorem seqTurn_rowPlan_of_start (hp : s.RowPlan) (h : seqTurn s = .next t)
    (hr : s.seq.ust ∈ [Label.idle, .in1, .in2, .in3]) : t.RowPlan := by
  simp only [List.mem_cons, List.not_mem_nil, or_false] at hr
  obtain hu | hu | hu | hu := hr
  · cases seqTurn_of_idle hu h
    exact hp
  · cases (seqTurn_in1 hu).symm.trans h
    trivial
  · cases (seqTurn_in2 hu).symm.trans h
    exact rfl
  · simp only [State.RowPlan, hu] at hp
    obtain ⟨htx, hrx, -⟩ := (seqTurn_initTurn (by rw [hu]; decide) h).pulse hu hp
    exact (State.rowPlan_of_rest (seqTurn_ust_mem h hu)).mpr ⟨by rw [htx]; rfl, by rw [hrx]; rfl⟩

/-- SEQ's turn keeps the plan, row by row. -/
theorem seqTurn_rowPlan (hs : s.StackInvariant) (hf : s.FifoPlan) (hd : s.par.DepthsSuffice)
    (h : seqTurn s = .next t) : t.RowPlan := by
  obtain ⟨hp, hcount⟩ := hf
  cases hu : s.seq.ust with
  | idle | in1 | in2 | in3 => exact seqTurn_rowPlan_of_start hp h (by rw [hu]; decide)
  | x1 => exact seqTurn_rowPlan_of_setRxth ((State.rowPlan_of_rest (by rw [hu]; decide)).mp hp) h (.inl hu)
  | rd1 => exact seqTurn_rowPlan_of_setRxth ((State.rowPlan_of_rest (by rw [hu]; decide)).mp hp) h (.inr hu)
  | x2 | x3 | we2 | rs2 | id2 | pp2 | rd2 | rd3 | rd7 =>
    exact seqTurn_rowPlan_of_clear hs hp hd h (by rw [hu]; decide) (by rw [hu]; decide)
  | x4 | x5 | rd4 | rd5 | rd8 | rd9 => exact seqTurn_rowPlan_of_sent hp h (by rw [hu]; decide)
  | x6 | x7 | rd6 | rd10 => exact seqTurn_rowPlan_of_arrived hs hp h (by rw [hu]; decide)
  | pp3 => exact seqTurn_rowPlan_pp3 hp hd h hu
  | pp4 => exact seqTurn_rowPlan_pp4 hp hd h hu
  | pp5 => exact seqTurn_rowPlan_pp5 hp hd h hu
  | pp6 => exact seqTurn_rowPlan_pp6 hp h hu
  | pp7 => exact seqTurn_rowPlan_pp7 hp h hu
  | pp8 => exact seqTurn_rowPlan_pp8 hp h hu
  | pp9 => exact seqTurn_rowPlan_pp9 hp hd h hu
  | pp10 => exact seqTurn_rowPlan_pp10 hp h hu
  | pp11 => exact seqTurn_rowPlan_pp11 hp h hu
  | pp12 => exact seqTurn_rowPlan_pp12 hp h hu
  | pp13 => exact seqTurn_rowPlan_pp13 hp h hu
  | pp14 => exact seqTurn_rowPlan_pp14 hp h hu
  | dr1 => exact seqTurn_rowPlan_dr1 hs hp h hu
  | dr2 => exact seqTurn_rowPlan_dr2 hp h hu
  | rd11 => exact seqTurn_rowPlan_rd11 hp (hcount (by rw [hu]; rfl)) h hu
  | rd12 => exact seqTurn_rowPlan_rd12 hp hd h hu
  | rd13 => exact seqTurn_rowPlan_rd13 hp h hu
  | rd14 => exact seqTurn_rowPlan_rd14 hp hd h hu
  | rd15 => exact seqTurn_rowPlan_rd15 hp h hu
  | l1 => exact seqTurn_rowPlan_l1 hp h hu
  | l2 => exact seqTurn_rowPlan_l2 hp h hu
  | l3 => exact seqTurn_rowPlan_l3 hp hd h hu
  | l4 => exact seqTurn_rowPlan_l4 hp h hu
  | l5 => exact seqTurn_rowPlan_l5 hp h hu
  | l6 => exact seqTurn_rowPlan_l6 hp h hu
  | _ =>
    exact seqTurn_rowPlan_of_rest hs hp h (by rw [hu]; decide) (by rw [hu]; decide) (by rw [hu]; decide)
      (by rw [hu]; decide)

/-- READ's first phases are reached through RD0 only, whose test they rest on (R251). -/
theorem Label.readPhases_of_goes (l : Label) : ∀ m ∈ l.goes,
    m.readPhases = true → l.readPhases = true ∨ l = .rd0 ∧ m ≠ .done := by
  cases l <;> decide

theorem Label.not_readPhases_of_calls (l : Label) : ∀ m ∈ l.calls, m.readPhases = false := by
  cases l <;> decide

theorem Label.not_readPhases_of_returns :
    ∀ l ∈ Label.returns, ∀ r ∈ l.callers, r.target.readPhases = false := by
  decide

theorem seqTurn_count_ne_zero (hs : s.StackInvariant) (hc : s.seq.ust.readPhases = true → s.seq.count ≠ 0)
    (h : seqTurn s = .next t) (ht : t.seq.ust.readPhases = true) : t.seq.count ≠ 0 := by
  have h10 : s.seq.ust ≠ .in10 := fun h10 => by
    have hmem : t.seq.ust ∈ [Label.in11] := seqTurn_ust_mem h h10
    rw [List.mem_singleton.mp hmem] at ht
    cases ht
  rw [(seqTurn_keepsCommand h h10).count]
  obtain ⟨hl, -⟩ | ⟨hl, -⟩ | ⟨q, hl, hq⟩ := seqTurn_flow h
  · obtain hread | ⟨hu, hdone⟩ := s.seq.ust.readPhases_of_goes _ hl ht
    · exact hc hread
    · exact count_ne_zero_of_rd0 h hu hdone
  · exact absurd ht (by rw [s.seq.ust.not_readPhases_of_calls _ hl]; decide)
  · obtain ⟨⟨r, hr, hu⟩, -⟩ := Seq.returnVia_target hs.1 hq
    exact absurd ht (by rw [hu, Label.not_readPhases_of_returns _ hl r hr]; decide)

end

/-! ## ENG's shift under the plan (R86, R282) -/

namespace Shifted

variable {s t : State}

theorem rxq_le (hx : Shifted s t) : s.ctl.rxq.length ≤ t.ctl.rxq.length := by
  obtain hroom | hfull := Nat.lt_or_ge s.ctl.rxq.length s.par.rxDepth
  · rw [hx.delivered hroom]
    exact Nat.le_succ _
  · exact (hx.overrun hfull).ge

theorem sum_le (hx : Shifted s t) :
    t.ctl.txq.length + t.ctl.rxq.length ≤ s.ctl.txq.length + s.ctl.rxq.length := by
  have htx := hx.txq
  obtain hroom | hfull := Nat.lt_or_ge s.ctl.rxq.length s.par.rxDepth
  · have hrx := hx.delivered hroom
    omega
  · have hrx := hx.overrun hfull
    omega

/-- With at most 63 entries about, none is lost. -/
theorem sum_eq (hx : Shifted s t) (hd : s.par.DepthsSuffice)
    (hsum : s.ctl.txq.length + s.ctl.rxq.length ≤ 63) :
    t.ctl.txq.length + t.ctl.rxq.length = s.ctl.txq.length + s.ctl.rxq.length := by
  obtain ⟨-, hrxd⟩ := hd
  have htx := hx.txq
  have hrx := hx.delivered (by omega)
  omega

theorem holds (hx : Shifted s t) (hd : s.par.DepthsSuffice) {m : Nat} (hm : m ≤ 63) (h : s.ctl.Holds m) :
    t.ctl.Holds m := by
  obtain ⟨hsum, hthres⟩ := h
  exact ⟨(hx.sum_eq hd (hsum ▸ hm)).trans hsum, hx.rxThres.trans hthres⟩

theorem txq_ne_zero (hx : Shifted s t) : s.ctl.txq.length ≠ 0 :=
  hx.txq ▸ Nat.succ_ne_zero _

theorem outstanding_le (hx : Shifted s t) : t.Outstanding ≤ s.Outstanding := by
  have hsum := hx.sum_le
  simp only [State.Outstanding, hx.seq]
  omega

theorem pumpPlan (hx : Shifted s t) (h : s.PumpPlan) : t.PumpPlan := by
  rwa [State.PumpPlan, hx.rxThres, hx.txThres, hx.seq, hx.par]

theorem drainPlan (hx : Shifted s t) {rs : List Record} (h : s.ctl.DrainPlan s.par rs) :
    t.ctl.DrainPlan s.par rs := by
  have htx := hx.txq
  cases rs with
  | nil => cases h
  | cons r rs =>
    obtain ⟨hthres, hpp9, hpp15⟩ := h
    refine ⟨hx.rxThres.trans hthres, fun hr => ?_, fun hr => absurd (hpp15 hr) hx.txq_ne_zero⟩
    obtain ⟨hroom, hsaved⟩ := hpp9 hr
    exact ⟨by omega, hsaved⟩

end Shifted

section
variable {s t : State}

/-- A shift moves one entry's worth from TXQ to RXQ, or loses it: no row's account breaks. -/
theorem shifted_rowPlan (hp : s.RowPlan) (hd : s.par.DepthsSuffice) (hx : Shifted s t) : t.RowPlan := by
  have htx := hx.txq
  have hrx := hx.rxq_le
  have hout := hx.outstanding_le
  cases hu : s.seq.ust <;> simp only [State.RowPlan, hu] at hp <;>
    simp only [State.RowPlan, hx.seq, hu, hx.par, hx.rxThres, hx.txThres, hx.plat]
  case idle => exact hp.imp_right fun he => absurd he.1 hx.txq_ne_zero
  case in3 => exact hp
  case x4 | x5 | rd4 | rd5 | rd8 | rd9 => exact hx.holds hd (by decide) hp
  case x2 | x3 | we2 | rs2 | id2 | pp2 | pp3 | rd2 | rd3 | rd7 => exact hx.holds hd (by decide) hp
  case x6 | x7 | rd6 | rd10 => exact absurd hp.1 hx.txq_ne_zero
  case pp4 => exact ⟨hx.holds hd (by omega) hp.1, hp.2⟩
  case pp5 | pp6 | pp7 => exact ⟨hx.holds hd (by decide) hp.1, hp.2⟩
  case pp8 => exact ⟨hp.1, hp.2.1, by omega⟩
  case pp9 => exact ⟨hp.1, hp.2.1, hp.2.2.1, by omega⟩
  case pp10 | pp11 | pp12 => exact hp
  case pp13 | pp14 => exact absurd hp.2 hx.txq_ne_zero
  case dr1 => exact hx.drainPlan hp
  case dr2 => exact ⟨hx.drainPlan hp.1, hp.2.trans hrx⟩
  case rd12 =>
    obtain ⟨hsum, hk, hcount, hn, hrest⟩ := hp
    exact ⟨(hx.sum_eq hd (by omega)).trans hsum, hk, hcount, hn, hrest⟩
  case rd13 => exact ⟨hout.trans hp.1, hp.2⟩
  case rd14 => exact ⟨hout.trans hp.1, hp.2⟩
  case rd15 | l1 => exact ⟨hout.trans hp.1, hx.pumpPlan hp.2⟩
  case l2 | l4 =>
    obtain ⟨hsum, hpump, hne⟩ := hp
    exact ⟨hout.trans hsum, hx.pumpPlan hpump, hne⟩
  case l3 =>
    obtain ⟨hk, hn, hsum, hroom, hpump⟩ := hp
    exact ⟨hk, hn, hout.trans hsum, by omega, hx.pumpPlan hpump⟩
  case l5 =>
    obtain ⟨hk, hchunk, hsum, hpump⟩ := hp
    exact ⟨hk, by omega, by omega, hx.pumpPlan hpump⟩
  case l6 => exact ⟨hout.trans hp.1, hp.2⟩
  all_goals exact absurd hp.1 hx.txq_ne_zero

/-- A command starts with both FIFOs empty (R42), or is INIT, whose reset empties them. -/
theorem firstStep_rest {op : BitVec 4} (h : op.toNat ≤ 8) :
    (op = 0 → firstStep op = .in1) ∧ (op ≠ 0 → firstStep op ∈ Label.restRows) ∧
      (firstStep op).readPhases = false := by
  decide +revert

theorem State.FifoPlan.accepted {op : BitVec 4} {d : Desc} (hp : s.FifoPlan) (ha : s.Accepts op d) :
    (s.accepted op (firstStep op) d).FifoPlan := by
  obtain ⟨hinit, hrest, hread⟩ := firstStep_rest ha.op_le
  refine ⟨?_, fun hr => absurd hr (by rw [State.accepted, hread]; decide)⟩
  by_cases h0 : op = 0
  · simp only [State.RowPlan, State.accepted, hinit h0]
  · obtain ⟨hrow, -⟩ := hp
    simp only [State.RowPlan, ha.idle] at hrow
    exact (State.rowPlan_of_rest (hrest h0)).mpr (hrow.resolve_left (ha.initialised h0).1)

end

/-- Settles O55, agent by agent: SEQ's rows by their table, ENG's shift by R282, HOST's acceptance by R42. -/
theorem stepKeepsFifoPlan : Obligations.StepKeepsFifoPlan := by
  intro s t hs hp hd h
  obtain h | h | h := step_turn h
  · exact ⟨seqTurn_rowPlan (s := s.tick) hs hp hd h, seqTurn_count_ne_zero (s := s.tick) hs hp.2 h⟩
  · obtain rfl | hx := engStep_shifted h
    · exact hp
    · exact ⟨shifted_rowPlan (s := s.tick) hp.1 hd hx, by rw [hx.seq]; exact hp.2⟩
  · obtain ⟨m, x, rfl⟩ | ⟨op, d, x, ha, rfl⟩ := hostTurn_cases h
    · exact hp
    · exact State.FifoPlan.accepted (s := s.tick) hp ha

end Sys2Proof.Machine

/-! SUPPORT. The frame plan (R42, R345): chip-select is asserted from a CS_ON to its CS_OFF, and ENG runs in
between only. -/

namespace Sys2Proof.Machine

/-! ## The plan by kinds of row -/

/-- ENG is enabled, chip-select has the level of a frame or of none, and nothing runs outside one. -/
def Ctl.Framed (c : Ctl) (b : Bool) : Prop :=
  c.en = true ∧ c.config.cslvl = frameLevel b ∧ (b = false → c.running = false)

/-- Under EMPTY_POLICY = `stop` nothing runs with TXQ empty (R281). -/
def State.StopsEmpty (s : State) : Prop :=
  s.par.emptyPolicy = .stop → s.ctl.txq.length = 0 → s.ctl.running = false

section
variable {s t : State}

theorem State.framePlan_of_framed (hstop : s.StopsEmpty) (hu : s.seq.ust ∉ Label.ofInit)
    (hf : s.ctl.Framed (s.seq.ust.inFrame s.seq.stk)) : s.FramePlan := by
  obtain ⟨hen, hcs, hrun⟩ := hf
  refine ⟨hstop, ?_⟩
  cases hl : s.seq.ust <;> rw [hl] at hu hcs hrun
  case idle => exact .inr ⟨hen, hrun rfl, hcs⟩
  case in1 | in2 | in3 | in4 | in5 | in6 | in7 | in8 | in9 | in10 | in11 => exact absurd (by decide) hu
  all_goals exact ⟨hen, hcs, hrun⟩

theorem State.FramePlan.framed (hp : s.FramePlan) (hu : s.seq.ust ∉ Label.ofInit) (hidle : s.seq.ust ≠ .idle) :
    s.ctl.Framed (s.seq.ust.inFrame s.seq.stk) := by
  obtain ⟨-, hrow⟩ := hp
  cases hl : s.seq.ust <;> rw [hl] at hu hidle <;> simp only [hl] at hrow
  case idle => exact absurd rfl hidle
  case in1 | in2 | in3 | in4 | in5 | in6 | in7 | in8 | in9 | in10 | in11 => exact absurd (by decide) hu
  all_goals exact hrow

theorem State.framePlan_of_insideReset (hstop : s.StopsEmpty) (hu : s.seq.ust.insideReset = true)
    (hrun : s.ctl.running = false) : s.FramePlan := by
  refine ⟨hstop, ?_⟩
  cases hl : s.seq.ust <;> rw [hl] at hu
  case in4 | in5 | in6 | in7 | in8 | in9 | in10 => exact hrun
  all_goals cases hu

theorem State.FramePlan.not_running_of_insideReset (hp : s.FramePlan) (hu : s.seq.ust.insideReset = true) :
    s.ctl.running = false := by
  obtain ⟨-, hrow⟩ := hp
  cases hl : s.seq.ust <;> rw [hl] at hu <;> simp only [hl] at hrow
  case in4 | in5 | in6 | in7 | in8 | in9 | in10 => exact hrow
  all_goals cases hu

/-! ## The rows in a frame -/

/-- Whether the row is followed by a row in a frame: CS_ON begins one and CS_OFF ends it. -/
def Label.inFrameAfter (stk : List Record) : Label → Bool
  | .x2 | .pp2 | .rd2 => true
  | .x6 | .pp13 | .rd16 => false
  | l => l.inFrame stk

theorem Label.inFrame_goes (l : Label) (stk : List Record) (hi : l ∉ Label.ofInit) :
    ∀ m ∈ l.goes, m ∉ Label.ofInit ∧ m.inFrame stk = l.inFrameAfter stk := by
  cases l <;> simp [Label.goes, Label.succ, Label.inFrame, Label.inFrameAfter, Label.ofInit, Label.initRows] at hi ⊢

/-- Of the calls only PP8's is made in a frame, and its record says so. -/
theorem Label.inFrame_calls (l : Label) (stk : List Record) (r : Record) (hr : r.resume = l.resume) :
    ∀ m ∈ l.calls, m ∉ Label.ofInit ∧ m.inFrame (r :: stk) = l.inFrameAfter stk := by
  cases l <;>
    simp [Label.calls, Label.resume, Label.succ, Label.inFrame, Label.inFrameAfter, Label.ofInit,
      Label.initRows] at hr ⊢
  all_goals simp [hr]

/-- A return stays in the frame exactly if it is RX_DRAIN's to PP9. -/
theorem Label.inFrame_returns {l : Label} {r : Resume} (hl : l ∈ Label.returns) (hr : r ∈ l.callers)
    (v : Saved) (rest stk : List Record) :
    r.target ∉ Label.ofInit ∧ r.target.inFrame stk = l.inFrameAfter (⟨r, v⟩ :: rest) := by
  cases l <;> simp [Label.returns] at hl <;> simp only [Label.callers, List.mem_cons, List.not_mem_nil, or_false] at hr
  case x7 => obtain rfl | rfl | rfl | rfl | rfl := hr <;> exact ⟨by decide, rfl⟩
  case we2 => obtain rfl | rfl | rfl | rfl := hr <;> exact ⟨by decide, rfl⟩
  case rs2 | ww2 | dr1 => obtain rfl | rfl := hr <;> exact ⟨by decide, rfl⟩
  case id2 =>
    subst hr
    exact ⟨by decide, rfl⟩

theorem seqTurn_inFrame (hs : s.StackInvariant) (h : seqTurn s = .next t) (hi : s.seq.ust ∉ Label.ofInit) :
    t.seq.ust ∉ Label.ofInit ∧ t.seq.ust.inFrame t.seq.stk = s.seq.ust.inFrameAfter s.seq.stk := by
  obtain ⟨hl, hk⟩ | ⟨hl, hk⟩ | ⟨q, hl, hq⟩ := seqTurn_flow h
  · rw [hk]
    exact s.seq.ust.inFrame_goes s.seq.stk hi _ hl
  · rw [hk]
    exact s.seq.ust.inFrame_calls s.seq.stk _ s.seq.returnRecord_resume_eq _ hl
  · obtain ⟨m, v, rest, hk, hm, ht⟩ | ⟨v, v', rest, hk, hret, ht⟩ := Seq.returnVia_cases hs.1 hq
    · rw [ht, Seq.resumeAt_ust, hk]
      exact Label.inFrame_returns hl hm v rest _
    · rw [ht, hk]
      exact Label.inFrame_returns hl hret v _ _

/-! ## What `running` and the level do along SEQ's rows (R281) -/

/-- The rows of CS_ON, of CS_OFF and of START (Tables 42-1, 43-2, 45-1). -/
def Label.csOnRows : List Label := [.x2, .pp2, .rd2]

def Label.csOffRows : List Label := [.x6, .pp13, .rd16]

def Label.startRows : List Label := [.x4, .pp6, .pp10, .rd4, .rd8, .rd15]

theorem microInstr_csOn (hu : s.seq.ust ∈ Label.csOnRows) : microInstr s = some .csOn := by
  cases hl : s.seq.ust <;> simp [hl, Label.csOnRows] at hu <;> simp only [microInstr, hl]

theorem microInstr_csOff (hu : s.seq.ust ∈ Label.csOffRows) : microInstr s = some .csOff := by
  cases hl : s.seq.ust <;> simp [hl, Label.csOffRows] at hu <;> simp only [microInstr, hl]

theorem ust_of_configWrite {i : Instr} (hm : microInstr s = some i) :
    (i = .csOn → s.seq.ust ∈ Label.csOnRows) ∧ (i = .csOff → s.seq.ust ∈ Label.csOffRows) ∧
      (i = .start → s.seq.ust ∈ Label.startRows) := by
  cases hu : s.seq.ust with
  | x2 | pp2 | rd2 | x6 | pp13 | rd16 | x4 | pp6 | pp10 | rd4 | rd8 | rd15 =>
    simp only [microInstr, hu] at hm
    cases hm
    decide
  | wt2 | rd7 =>
    simp only [microInstr, hu] at hm
    split at hm <;> cases hm <;> exact ⟨nofun, nofun, nofun⟩
  | _ =>
    simp only [microInstr, hu, reduceCtorEq, Option.some.injEq] at hm
    all_goals (subst hm; exact ⟨nofun, nofun, nofun⟩)

theorem ust_of_csOn (hm : microInstr s = some .csOn) : s.seq.ust ∈ Label.csOnRows :=
  (ust_of_configWrite hm).1 rfl

theorem ust_of_csOff (hm : microInstr s = some .csOff) : s.seq.ust ∈ Label.csOffRows :=
  (ust_of_configWrite hm).2.1 rfl

theorem ust_of_start (hm : microInstr s = some .start) : s.seq.ust ∈ Label.startRows :=
  (ust_of_configWrite hm).2.2 rfl

/-- Under `stop` a CONFIG write starts nothing with TXQ empty, and stops nothing. -/
theorem ctlWriteConfig_running_of_stop (c : CtlConfig) (b : Bool) (hp : s.par.emptyPolicy = .stop)
    (htx : s.ctl.txq = []) : (ctlWriteConfig c b s).ctl.running = s.ctl.running := by
  simp [ctlWriteConfig, runningAfterCs, runningAfterStart, hp, htx]

theorem exec_running_of_stop {i : Instr} (h : exec i s = .next t) (hp : s.par.emptyPolicy = .stop)
    (htx : s.ctl.txq = []) : t.ctl.running = s.ctl.running := by
  have written {u : State} {c : CtlConfig} {b : Bool} (ha : (ctlWriteConfig c b u).advance = .next t)
      (hpar : u.par = s.par) (hctl : u.ctl = s.ctl) : t.ctl.running = s.ctl.running := by
    obtain ⟨q, rfl⟩ := State.advance_eq_next ha
    rw [← hctl]
    exact ctlWriteConfig_running_of_stop c b (hpar ▸ hp) (hctl ▸ htx)
  by_cases hon : i = .csOn
  · subst hon
    obtain ⟨c, -, ha⟩ := setChipSelect_eq_next h
    exact written ha rfl rfl
  by_cases hoff : i = .csOff
  · subst hoff
    obtain ⟨c, -, ha⟩ := setChipSelect_eq_next h
    exact written ha rfl rfl
  by_cases hstart : i = .start
  · subst hstart
    obtain ⟨c, -, -, ha⟩ := execStart_eq_next h
    exact written ha rfl rfl
  · obtain ⟨m, -⟩ := exec_frame h
    exact (m.config hon hoff hstart).2

/-- An instruction of SEQ takes nothing from TXQ. -/
theorem exec_txq_prefix {i : Instr} (h : exec i s = .next t) : s.ctl.txq <+: t.ctl.txq := by
  by_cases hi : Instr.pushes i = true
  · obtain ⟨e, hctl, -⟩ := exec_pushes_fifo hi h
    rw [hctl]
    by_cases hroom : s.ctl.txq.length < s.par.txDepth
    · rw [txAppend_of_room e hroom]
      exact List.prefix_append _ _
    · rw [txAppend_of_full e hroom]
  · obtain ⟨m, -⟩ := exec_frame h
    rw [(m.txq (Bool.eq_false_of_not_eq_true hi)).1]

theorem seqTurn_stopsEmpty (hs : s.StopsEmpty) (h : seqTurn s = .next t) : t.StopsEmpty := by
  intro hp htx
  rw [(seqTurn_setupFrame h).par] at hp
  obtain ⟨i, -, hx⟩ | ⟨hi, hx⟩ | ⟨-, hx⟩ := seqTurn_cases h
  · have hempty : s.ctl.txq.length = 0 := Nat.le_zero.mp (htx ▸ (exec_txq_prefix hx).length_le)
    rw [exec_running_of_stop hx hp (List.length_eq_zero_iff.mp hempty)]
    exact hs hp hempty
  · by_cases h3 : s.seq.ust = .in3
    · cases hl : s.plat.locked with
      | false => exact (hx.pulse h3 hl).2.2
      | true =>
        rw [hx.locked h3 hl] at htx ⊢
        exact hs hp htx
    · rw [(hx.queues h3).1] at htx
      rw [(hx.running h3).2 hp]
      exact hs hp htx
  · rw [hx.ctl] at htx ⊢
    exact hs hp htx

/-- CS_OFF finds nothing running: under `continue` it stops ENG, under `stop` TXQ is empty (R42, R281). -/
theorem not_running_of_csOff (hstop : s.StopsEmpty) (hp : s.RowPlan)
    (hcs : s.ctl.config.cslvl = .asserted) (hu : s.seq.ust ∈ Label.csOffRows) (h : seqTurn s = .next t) :
    t.ctl.config.cslvl = .deasserted ∧ t.ctl.running = false := by
  obtain ⟨c, -, ha⟩ := setChipSelect_eq_next ((seqTurn_of_microInstr (microInstr_csOff hu)).symm.trans h)
  obtain ⟨q, rfl⟩ := State.advance_eq_next ha
  refine ⟨rfl, (runningAfterCs_deasserted _ _ _).trans ?_⟩
  have hempty : s.ctl.txq.length = 0 := by
    cases hl : s.seq.ust <;> simp [hl, Label.csOffRows] at hu <;> simp only [State.RowPlan, hl] at hp
    case x6 => exact hp.1
    case pp13 => exact hp.2
    case rd16 => exact hp.1
  show (if s.par.emptyPolicy = .continue ∧ s.ctl.config.cslvl = .asserted then false else s.ctl.running) = false
  by_cases hpol : s.par.emptyPolicy = .stop
  · rw [hstop hpol hempty, ite_self]
  · have hcontinue : s.par.emptyPolicy = .continue := by
      cases hc : s.par.emptyPolicy
      · exact absurd hc hpol
      · rfl
    rw [if_pos ⟨hcontinue, hcs⟩]

theorem Label.inFrame_of_configRows : (∀ l ∈ Label.csOnRows, ∀ stk, l.inFrameAfter stk = true) ∧
    (∀ l ∈ Label.csOffRows, ∀ stk, l.inFrame stk = true ∧ l.inFrameAfter stk = false) ∧
      ∀ l ∈ Label.startRows, ∀ stk, l.inFrameAfter stk = true ∧ l.inFrame stk = true := by
  simp [Label.csOnRows, Label.csOffRows, Label.startRows, Label.inFrame, Label.inFrameAfter]

theorem Label.inFrameAfter_eq {l : Label} (hon : l ∉ Label.csOnRows) (hoff : l ∉ Label.csOffRows)
    (stk : List Record) : l.inFrameAfter stk = l.inFrame stk := by
  cases l <;> simp [Label.csOnRows, Label.csOffRows] at hon hoff <;> rfl

/-- Outside INIT only CS_ON, CS_OFF and START write `running`. -/
theorem seqTurn_running (h : seqTurn s = .next t) (hi : s.seq.ust ∉ Label.ofInit)
    (hm : microInstr s ∉ [some Instr.csOn, some .csOff, some .start]) : t.ctl.running = s.ctl.running := by
  obtain ⟨i, hmi, hx⟩ | ⟨hin, -⟩ | ⟨-, hx⟩ := seqTurn_cases h
  · obtain ⟨m, -⟩ := exec_frame hx
    rw [hmi] at hm
    simp only [List.mem_cons, List.not_mem_nil, or_false, Option.some.injEq, not_or] at hm
    obtain ⟨hon, hoff, hstart⟩ := hm
    exact (m.config hon hoff hstart).2
  · exact absurd hin hi
  · rw [hx.ctl]

theorem cslvl_of_csOn (hu : s.seq.ust ∈ Label.csOnRows) (h : seqTurn s = .next t) :
    t.ctl.config.cslvl = .asserted := by
  obtain ⟨c, -, ha⟩ := setChipSelect_eq_next ((seqTurn_of_microInstr (microInstr_csOn hu)).symm.trans h)
  obtain ⟨q, rfl⟩ := State.advance_eq_next ha
  rfl

/-- START writes back the value that CONFIG holds (R41, R172). -/
theorem config_of_start (hsh : s.ShadowInvariant) (hi : s.seq.ust.insideReset = false)
    (hm : microInstr s = some .start) (h : seqTurn s = .next t) : t.ctl.config = s.ctl.config := by
  obtain ⟨c, hc, -, ha⟩ := execStart_eq_next ((seqTurn_of_microInstr hm).symm.trans h)
  obtain ⟨q, rfl⟩ := State.advance_eq_next ha
  exact (hsh hi c hc).symm

theorem Label.ofInit_of_platformRows : ∀ l ∈ Label.platformRows, l ∈ Label.ofInit := by
  decide

theorem Label.insideReset_of_not_ofInit {l : Label} (h : l ∉ Label.ofInit) : l.insideReset = false := by
  cases l <;> simp [Label.ofInit, Label.initRows] at h <;> rfl

theorem seqTurn_framed (hsh : s.ShadowInvariant) (hp : s.RowPlan) (hstop : s.StopsEmpty)
    (hi : s.seq.ust ∉ Label.ofInit) (hf : s.ctl.Framed (s.seq.ust.inFrame s.seq.stk))
    (h : seqTurn s = .next t) : t.ctl.Framed (s.seq.ust.inFrameAfter s.seq.stk) := by
  obtain ⟨hen, hcs, hrun⟩ := hf
  obtain ⟨onRows, offRows, startRows⟩ := Label.inFrame_of_configRows
  have f := seqTurn_setupFrame h
  have hen' : t.ctl.en = true := (f.platform fun hl => hi (Label.ofInit_of_platformRows _ hl)).1.trans hen
  by_cases hon : s.seq.ust ∈ Label.csOnRows
  · rw [onRows _ hon]
    exact ⟨hen', cslvl_of_csOn hon h, nofun⟩
  by_cases hoff : s.seq.ust ∈ Label.csOffRows
  · obtain ⟨hin, hafter⟩ := offRows _ hoff s.seq.stk
    rw [hin] at hcs
    obtain ⟨hlevel, hstopped⟩ := not_running_of_csOff hstop hp hcs hoff h
    rw [hafter]
    exact ⟨hen', hlevel, fun _ => hstopped⟩
  rw [Label.inFrameAfter_eq hon hoff]
  by_cases hm : microInstr s = some .start
  · rw [← config_of_start hsh (Label.insideReset_of_not_ofInit hi) hm h] at hcs
    obtain ⟨-, hin⟩ := startRows _ (ust_of_start hm) s.seq.stk
    exact ⟨hen', hcs, fun hout => absurd (hin.symm.trans hout) (by decide)⟩
  · have hwrites : microInstr s ∉ [some Instr.csOn, some .csOff, some .start] := by
      simp only [List.mem_cons, List.not_mem_nil, or_false, not_or]
      exact ⟨fun hc => hon (ust_of_csOn hc), fun hc => hoff (ust_of_csOff hc), hm⟩
    have hconfig : t.ctl.config = s.ctl.config :=
      (f.config ⟨fun h3 => hi (by rw [h3]; decide), fun h10 => hi (by rw [h10]; decide), hwrites⟩).1
    rw [Ctl.Framed, hconfig, seqTurn_running h hi hwrites]
    exact ⟨hen', hcs, hrun⟩

/-! ## INIT establishes the plan (R156) -/

/-- INIT's rows: the reset stops ENG, IN10 deasserts chip-select and IN11 enables ENG. -/
theorem seqTurn_framePlan_of_init (hp : s.RowPlan) (hf : s.FramePlan) (hstop : t.StopsEmpty)
    (hi : s.seq.ust ∈ Label.ofInit) (h : seqTurn s = .next t) : t.FramePlan := by
  have hx := seqTurn_initTurn hi h
  cases hu : s.seq.ust with
  | in1 =>
    cases (seqTurn_in1 hu).symm.trans h
    exact ⟨hstop, trivial⟩
  | in2 =>
    cases (seqTurn_in2 hu).symm.trans h
    exact ⟨hstop, trivial⟩
  | in3 =>
    simp only [State.RowPlan, hu] at hp
    obtain ⟨-, -, hrun⟩ := hx.pulse hu hp
    have ht : t.seq.ust ∈ [Label.in4] := seqTurn_ust_mem h hu
    exact State.framePlan_of_insideReset hstop (by rw [List.mem_singleton.mp ht]; rfl) hrun
  | in4 | in5 | in6 | in7 | in8 | in9 =>
    obtain ⟨hkept, -⟩ := hx.running (by rw [hu]; decide)
    obtain ⟨hcalls, hreturns, hgoes⟩ := s.seq.ust.insideReset_goes (by rw [hu]; rfl) (by rw [hu]; decide)
    obtain ⟨hl, -⟩ := (seqTurn_flow h).mem_goes hcalls hreturns
    exact State.framePlan_of_insideReset hstop (hgoes _ hl)
      (hkept (hf.not_running_of_insideReset (by rw [hu]; rfl)))
  | in10 =>
    obtain ⟨hkept, -⟩ := hx.running (by rw [hu]; decide)
    have hrun := hkept (hf.not_running_of_insideReset (by rw [hu]; rfl))
    cases (seqTurn_in10 hu).symm.trans h
    exact ⟨hstop, hrun, merge_cfgval_cslvl _ _ _⟩
  | in11 =>
    obtain ⟨-, hrow⟩ := hf
    simp only [hu] at hrow
    obtain ⟨hrun, hcs⟩ := hrow
    cases (seqTurn_in11 hu).symm.trans h
    exact State.framePlan_of_framed hstop (show Label.done ∉ Label.ofInit by decide) ⟨rfl, hcs, fun _ => hrun⟩
  | _ => simp [hu, Label.ofInit, Label.initRows] at hi

theorem seqTurn_framePlan (hs : s.StackInvariant) (hsh : s.ShadowInvariant) (hp : s.RowPlan) (hf : s.FramePlan)
    (h : seqTurn s = .next t) : t.FramePlan := by
  have hstop := seqTurn_stopsEmpty hf.1 h
  by_cases hi : s.seq.ust ∈ Label.ofInit
  · exact seqTurn_framePlan_of_init hp hf hstop hi h
  by_cases hidle : s.seq.ust = .idle
  · cases seqTurn_of_idle hidle h
    exact hf
  · obtain ⟨ht, hframe⟩ := seqTurn_inFrame hs h hi
    exact State.framePlan_of_framed hstop ht (hframe ▸ seqTurn_framed hsh hp hf.1 hi (hf.framed hi hidle) h)

/-! ## ENG and HOST -/

theorem Shifted.stopsEmpty (hx : Shifted s t) : t.StopsEmpty := by
  intro hp htx
  rw [hx.running, runningAfterShift_eq, if_pos ⟨hx.par ▸ hp, List.length_eq_zero_iff.mp htx⟩]

/-- ENG shifts where it runs, and so in a frame, before the reset, or before the first INIT. -/
theorem Shifted.framePlan (hx : Shifted s t) (hf : s.FramePlan) : t.FramePlan := by
  have hrun {P : Prop} (hr : s.ctl.running = false) : P := Bool.noConfusion (hr.symm.trans hx.wasRunning)
  refine ⟨hx.stopsEmpty, ?_⟩
  obtain ⟨-, hrow⟩ := hf
  rw [hx.seq, hx.en, hx.config]
  cases hu : s.seq.ust <;> simp only [hu] at hrow ⊢
  case in4 | in5 | in6 | in7 | in8 | in9 | in10 => exact hrun hrow
  case in11 => exact hrun hrow.1
  case idle => exact hrow.imp_right fun ⟨_, hr, _⟩ => hrun hr
  all_goals
    obtain ⟨hen, hcs, hr⟩ := hrow
    exact ⟨hen, hcs, fun hout => hrun (hr hout)⟩

theorem firstStep_inFrame {op : BitVec 4} (h : op.toNat ≤ 8) :
    op ≠ 0 → firstStep op ∉ Label.ofInit ∧ (firstStep op).inFrame [] = false := by
  decide +revert

theorem State.FramePlan.accepted {op : BitVec 4} {d : Desc} (hf : s.FramePlan) (ha : s.Accepts op d) :
    (s.accepted op (firstStep op) d).FramePlan := by
  obtain ⟨hstop, hrow⟩ := hf
  by_cases h0 : op = 0
  · subst h0
    exact ⟨hstop, trivial⟩
  · simp only [ha.idle] at hrow
    obtain ⟨hen, hrun, hcs⟩ := hrow.resolve_left (ha.initialised h0).1
    obtain ⟨hinit, hframe⟩ := firstStep_inFrame ha.op_le h0
    refine State.framePlan_of_framed hstop hinit ?_
    exact ⟨hen, hcs.trans (congrArg frameLevel hframe.symm), fun _ => hrun⟩

end

/-- Settles O57, agent by agent: SEQ's rows begin and end the frames, ENG runs inside them, and a command is
accepted outside. -/
theorem stepKeepsFramePlan : Obligations.StepKeepsFramePlan := by
  rintro s t ⟨hs, hsh, ⟨hp, -⟩, hf, -, -⟩ h
  obtain h | h | h := step_turn h
  · exact seqTurn_framePlan (s := s.tick) hs hsh hp hf h
  · obtain rfl | hx := engStep_shifted h
    · exact hf
    · exact Shifted.framePlan (s := s.tick) hx hf
  · obtain ⟨m, x, rfl⟩ | ⟨op, d, x, ha, rfl⟩ := hostTurn_cases h
    · exact hf
    · exact State.FramePlan.accepted (s := s.tick) hf ha

/-- Settles O59: the FIFO plan and the frame plan at IDLE. -/
theorem idleAfterInitIsQuiescent : Obligations.IdleAfterInitIsQuiescent := by
  rintro s ⟨-, -, ⟨hp, -⟩, ⟨-, hf⟩, -, -⟩ hu hsh
  simp only [State.RowPlan, hu] at hp
  simp only [hu] at hf
  obtain ⟨htx, hrx⟩ := hp.resolve_left hsh
  obtain ⟨hen, hrun, hcs⟩ := hf.resolve_left hsh
  exact ⟨List.length_eq_zero_iff.mp htx, List.length_eq_zero_iff.mp hrx, hrun, hcs, hen⟩

end Sys2Proof.Machine
